-- ==== Sys2Proof/Word.lean ====
section
/-! DEFINITION. The word types of the PS/2 protocol engine, each of the width the spec declares for it (spec/10_state.md, spec/30_encoding.md). -/

namespace Sys2Proof

/-- A byte on the wire: the 8 data bits of a frame (30_encoding.md R100). -/
abbrev Byte := BitVec 8

/-- An 11-bit frame, bit i being frame bit i (30_encoding.md R103). -/
abbrev Frame := BitVec 11

/-- A request word (30_encoding.md R109). -/
abbrev ReqWord := BitVec 24

/-- A response or result word (30_encoding.md R114). -/
abbrev RespWord := BitVec 32

/-- A scan code or the accumulated value of the scan buffer (30_encoding.md R108). -/
abbrev Code := BitVec 24

/-- A key identity (00_scope.md R11, 43_scan_decoder.md R260). -/
abbrev KeyId := BitVec 8

end Sys2Proof
end

