-- ==== Sys2Proof/Config.lean ====
section
/-! DEFINITION. The implementation parameters of spec/00_scope.md R8 to R11 as one record. The machine carries it (`State.cfg`) and no step writes it (20_memory.md R92), so a statement over every state holds for every configuration. -/

namespace Sys2Proof

/-- One entry of KEY_TABLE (00_scope.md R10, 43_scan_decoder.md R260). -/
structure KeyEntry where
  id   : KeyId
  make : Code
  brk  : Code
  deriving DecidableEq, Repr

/-- One point where CHAR_MAP is defined (00_scope.md R10). -/
structure CharEntry where
  id    : KeyId
  lower : Byte
  upper : Byte
  deriving DecidableEq, Repr

/-- The parameters. CHAR_MAP and IS_ALPHA are maps on the 256 identities; as plain data they are the list of their defined points and the list of the identities they hold of (DESIGN CHOICE, log entry 20). -/
structure Config where
  /-- RESP_ACK, RESP_RESEND and RESP_READY (R8). -/
  respAck    : Byte
  respResend : Byte
  respReady  : Byte
  /-- The eight command bytes (R9). -/
  cmdReset        : Byte
  cmdResend       : Byte
  cmdSetDefault   : Byte
  cmdDisable      : Byte
  cmdEnable       : Byte
  cmdSetTypematic : Byte
  cmdReadId       : Byte
  cmdSetLeds      : Byte
  /-- T_INHIBIT and T_RESPONSE (R10): named parameters that no rule reads (60_exceptions.md R330, R331). -/
  tInhibit  : Nat
  tResponse : Nat
  /-- KEY_TABLE (R10). -/
  keyTable  : List KeyEntry
  /-- KEY_CAPS, KEY_NUM and KEY_SCROLL (R10). -/
  keyCaps   : KeyId
  keyNum    : KeyId
  keyScroll : KeyId
  /-- CHAR_MAP and IS_ALPHA (R10). -/
  charMap   : List CharEntry
  isAlpha   : List KeyId
  /-- ACK_LEVEL, MAX_RESEND and SCAN_BUF_MAX (R11). -/
  ackLevel   : Bool
  maxResend  : Nat
  scanBufMax : Nat
  deriving DecidableEq, Repr

/-- TM_RATE_DEFAULT (R8). -/
def tmRateDefault : BitVec 5 := 0x0B#5

/-- TM_DELAY_DEFAULT (R8). -/
def tmDelayDefault : BitVec 2 := 0x01#2

/-- The configuration `State.reset` carries: the values R8, R9 and R11 give (the command bytes and ACK_LEVEL are the spec's own general-knowledge defaults). The OPEN parameters of R10 have no value in the spec: the table and the maps are empty, the lock ids are three distinct identities, the two intervals are 0 (DESIGN CHOICE, log entry 3). -/
def Config.initial : Config where
  respAck    := 0xFA#8
  respResend := 0xFE#8
  respReady  := 0xAA#8
  cmdReset        := 0xFF#8
  cmdResend       := 0xFE#8
  cmdSetDefault   := 0xF6#8
  cmdDisable      := 0xF5#8
  cmdEnable       := 0xF4#8
  cmdSetTypematic := 0xF3#8
  cmdReadId       := 0xF2#8
  cmdSetLeds      := 0xED#8
  tInhibit  := 0
  tResponse := 0
  keyTable  := []
  keyCaps   := 0x00#8
  keyNum    := 0x01#8
  keyScroll := 0x02#8
  charMap   := []
  isAlpha   := []
  ackLevel   := false
  maxResend  := 1
  scanBufMax := 3

end Sys2Proof
end

