-- ==== Sys2Proof/Syntax.lean ====
section
/-! DEFINITION. The rows of spec/opcode_table.json, one constructor each, and the inputs the block is offered on its ports. -/

namespace Sys2Proof

/-- One constructor per row of spec/opcode_table.json, its operands at the widths of 30_encoding.md R110, R131, R105 and R106. -/
inductive Instr where
  -- transaction requests (42_sequencer.md R202 to R209)
  | kbReset
  | kbEnable
  | kbDisable
  | kbDefaults
  | kbSetleds (caps num scroll : Bool)
  | kbTypematic (rate delay : BitVec 8)
  | kbReadid
  | kbResend
  -- query requests (44_queries.md R291 to R296)
  | qLocks
  | qResult
  | qStatus
  | qDev
  | qDiag
  | qXlat (key : KeyId)
  -- events and reset (30_encoding.md R130, R131)
  | fall (d : Bool)
  | inhdone
  | timeout
  | rst
  -- host-to-device bytes (30_encoding.md R104 to R106)
  | cmdReset
  | cmdEnable
  | cmdDisable
  | cmdSetDefault
  | cmdSetLeds
  | cmdSetTypematic
  | cmdReadId
  | cmdResend
  | ledData (caps num scroll : Bool)
  | typematicData (rate : BitVec 5) (delay : BitVec 2)
  -- device-to-host bytes (30_encoding.md R107)
  | respAck
  | respResend
  | respReady
  deriving DecidableEq, Repr

/-- One input offered to the block, as bits on the port it arrives at (20_memory.md R80). A wire byte carries its direction, and a host byte its place in the exchange, because the same eight bits stand for different rows there (log entry 12). -/
inductive Input where
  /-- a word on REQ -/
  | req (w : ReqWord)
  /-- an event word (30_encoding.md R131) -/
  | event (ev : BitVec 3)
  /-- the RST input -/
  | reset (r : BitVec 1)
  /-- a host-to-device byte in the place of a command byte -/
  | hostCommand (b : Byte)
  /-- a host-to-device byte in the place of the LED data byte -/
  | hostLedData (b : Byte)
  /-- a host-to-device byte in the place of the typematic data byte -/
  | hostTypematicData (b : Byte)
  /-- a device-to-host byte -/
  | deviceByte (b : Byte)
  deriving DecidableEq, Repr

/-- The row's mnemonic as spec/opcode_table.json spells it. -/
def Instr.mnemonic : Instr → String
  | .kbReset => "KB_RESET"
  | .kbEnable => "KB_ENABLE"
  | .kbDisable => "KB_DISABLE"
  | .kbDefaults => "KB_DEFAULTS"
  | .kbSetleds _ _ _ => "KB_SETLEDS"
  | .kbTypematic _ _ => "KB_TYPEMATIC"
  | .kbReadid => "KB_READID"
  | .kbResend => "KB_RESEND"
  | .qLocks => "Q_LOCKS"
  | .qResult => "Q_RESULT"
  | .qStatus => "Q_STATUS"
  | .qDev => "Q_DEV"
  | .qDiag => "Q_DIAG"
  | .qXlat _ => "Q_XLAT"
  | .fall _ => "FALL"
  | .inhdone => "INHDONE"
  | .timeout => "TIMEOUT"
  | .rst => "RST"
  | .cmdReset => "CMD_RESET"
  | .cmdEnable => "CMD_ENABLE"
  | .cmdDisable => "CMD_DISABLE"
  | .cmdSetDefault => "CMD_SET_DEFAULT"
  | .cmdSetLeds => "CMD_SET_LEDS"
  | .cmdSetTypematic => "CMD_SET_TYPEMATIC"
  | .cmdReadId => "CMD_READ_ID"
  | .cmdResend => "CMD_RESEND"
  | .ledData _ _ _ => "LED_DATA"
  | .typematicData _ _ => "TYPEMATIC_DATA"
  | .respAck => "RESP_ACK"
  | .respResend => "RESP_RESEND"
  | .respReady => "RESP_READY"

/-- The transaction requests (00_scope.md R18, 30_encoding.md R112). -/
def Instr.isTransaction : Instr → Bool
  | .kbReset | .kbEnable | .kbDisable | .kbDefaults | .kbSetleds _ _ _ | .kbTypematic _ _
  | .kbReadid | .kbResend => true
  | .qLocks | .qResult | .qStatus | .qDev | .qDiag | .qXlat _ | .fall _ | .inhdone | .timeout
  | .rst | .cmdReset | .cmdEnable | .cmdDisable | .cmdSetDefault | .cmdSetLeds
  | .cmdSetTypematic | .cmdReadId | .cmdResend | .ledData _ _ _ | .typematicData _ _
  | .respAck | .respResend | .respReady => false

/-- The query requests (00_scope.md R18, 30_encoding.md R112). -/
def Instr.isQuery : Instr → Bool
  | .qLocks | .qResult | .qStatus | .qDev | .qDiag | .qXlat _ => true
  | .kbReset | .kbEnable | .kbDisable | .kbDefaults | .kbSetleds _ _ _ | .kbTypematic _ _
  | .kbReadid | .kbResend | .fall _ | .inhdone | .timeout | .rst | .cmdReset | .cmdEnable
  | .cmdDisable | .cmdSetDefault | .cmdSetLeds | .cmdSetTypematic | .cmdReadId | .cmdResend
  | .ledData _ _ _ | .typematicData _ _ | .respAck | .respResend | .respReady => false

end Sys2Proof
end

