-- ==== Sys2Proof/Machine/State.lean ====
section
/-! DEFINITION. The state of the machine as plain data: the block's elements (spec/10_state.md) and what stands around the block (its configuration, its inputs, the requests held at the host, the items it emitted), with the reasons a step can stop and the state after reset (70_reset_and_hazards.md R351). -/

namespace Sys2Proof.Machine

/-- BS_MODE (10_state.md R33). -/
inductive BsMode where
  | idle | receiving | inhibit | transmitting | ack
  deriving DecidableEq, Repr

/-- SEQ_PHASE (10_state.md R38). -/
inductive SeqPhase where
  | idle | inhibit | sending | await
  deriving DecidableEq, Repr

/-- AWAIT_SUB (10_state.md R39). -/
inductive AwaitSub where
  | awAck | awReady | awId0 | awId1
  deriving DecidableEq, Repr

/-- T_KIND (10_state.md R40). -/
inductive TKind where
  | generic | twoPhase | reset | readId
  deriving DecidableEq, Repr

/-- The result codes (30_encoding.md R116). Codes 8 to 15 have no constructor: they are never produced. -/
inductive ResultCode where
  | none | ack | ready | deviceId | protocolError | resendLimit | timeout | rejected
  deriving DecidableEq, Repr

/-- An item the block emits (00_scope.md R16, 30_encoding.md R143). -/
inductive Output where
  /-- the response to a query or a rejected request -/
  | resp (w : RespWord)
  /-- the result word of a completed transaction -/
  | done (w : RespWord)
  /-- a key event -/
  | key (id : KeyId) (pressed : Bool)
  deriving DecidableEq, Repr

/-- The state elements of the block, spec/10_state.md R31 to R53. -/
structure Block where
  /-- CLK_DRV, DAT_DRV (R31): true pulls the line low. -/
  clkDrv : Bool
  datDrv : Bool
  /-- BS_MODE (R33) -/
  bsMode : BsMode
  /-- RX_SHIFT (R34) -/
  rxShift : BitVec 11
  /-- RX_IDX (R35) -/
  rxIdx : BitVec 4
  /-- TX_FRAME (R36) -/
  txFrame : Frame
  /-- TX_IDX (R37) -/
  txIdx : BitVec 4
  /-- SEQ_PHASE (R38) -/
  seqPhase : SeqPhase
  /-- AWAIT_SUB (R39) -/
  awaitSub : AwaitSub
  /-- T_KIND (R40) -/
  tKind : TKind
  /-- T_CMD (R41) -/
  tCmd : Byte
  /-- T_DATA, T_DATA_V (R42) -/
  tData : Byte
  tDataV : Bool
  /-- T_LAST (R43) -/
  tLast : Byte
  /-- T_RESENDS (R44) -/
  tResends : BitVec 2
  /-- T_IDLO (R45) -/
  tIdlo : Byte
  /-- T_NACK (R46) -/
  tNack : Bool
  /-- RESULT (R47) -/
  result : RespWord
  /-- LED_CAPS, LED_NUM, LED_SCROLL (R48) -/
  ledCaps : Bool
  ledNum : Bool
  ledScroll : Bool
  /-- TM_RATE, TM_DELAY (R49) -/
  tmRate : BitVec 5
  tmDelay : BitVec 2
  /-- DEV_ID (R50) -/
  devId : BitVec 16
  /-- REL_CAPS, REL_NUM, REL_SCROLL (R51) -/
  relCaps : Bool
  relNum : Bool
  relScroll : Bool
  /-- SB_ACC, SB_LEN (R52) -/
  sbAcc : Code
  sbLen : BitVec 2
  /-- PERR_CNT, SERR_CNT, DESYNC_CNT (R53) -/
  perrCnt : BitVec 8
  serrCnt : BitVec 8
  desyncCnt : BitVec 8
  deriving DecidableEq, Repr

/-- Every element at its reset value (70_reset_and_hazards.md R351). -/
def Block.reset : Block where
  clkDrv := false
  datDrv := false
  bsMode := .idle
  rxShift := 0#11
  rxIdx := 0#4
  txFrame := 0#11
  txIdx := 0#4
  seqPhase := .idle
  awaitSub := .awAck
  tKind := .generic
  tCmd := 0x00#8
  tData := 0x00#8
  tDataV := false
  tLast := 0x00#8
  tResends := 0#2
  tIdlo := 0x00#8
  tNack := false
  result := 0x00000000#32
  ledCaps := false
  ledNum := false
  ledScroll := false
  tmRate := 0x0B#5
  tmDelay := 0x01#2
  devId := 0x0000#16
  relCaps := true
  relNum := true
  relScroll := true
  sbAcc := 0#24
  sbLen := 0#2
  perrCnt := 0#8
  serrCnt := 0#8
  desyncCnt := 0#8

/-- The machine: the block and what stands around it. -/
structure State where
  /-- The block's elements. -/
  blk : Block
  /-- The parameters of 00_scope.md R8 to R11. No step writes them (20_memory.md R92). -/
  cfg : Config
  /-- The inputs offered to the block, the next one first. The order is the order in which the block takes them (20_memory.md R89). The model's own field (log entry 1). -/
  inputs : List Input
  /-- The transaction requests that wait at the host (42_sequencer.md R201, 10_state.md R57 (d)), the one on the port first (log entries 7 and 8). -/
  held : List ReqWord
  /-- The items emitted so far, in emission order (30_encoding.md R143). The model's own record (log entry 6). -/
  out : List Output
  deriving DecidableEq, Repr

/-- The reasons the machine stops with a fault. Each is a treatment of 93_implementation_defined.md for a state that no run from reset reaches. -/
inductive Fault where
  /-- Raised by `step` in a state that violates an invariant of 10_state.md R54 or the range of RX_IDX (R35). Safe: no such state is reachable, and no effect is given there. -/
  | stateViolatesR54
  /-- Raised by a Fall in a pair of mode and index that 41_bit_sampler.md R170 gives no rule; such a state violates R54. Safe. -/
  | noRuleForEdge
  /-- Raised by DISPATCH when SEQ_PHASE is INHIBIT or SENDING (42_sequencer.md R232, "dispatch in a sending phase"). Safe. -/
  | dispatchInSendingPhase
  deriving DecidableEq, Repr

/-- The reasons the machine refuses. -/
inductive Refusal where
  /-- Raised by an arm of `exec` whose instruction has no meaning yet; no arm does. Safe. -/
  | notModelled (mnemonic : String)
  /-- Raised by `step` for an event word with EV[2] = 1 and kind 0, 2 or 3 (30_encoding.md R131). Safe. -/
  | reservedEventWord
  /-- Raised by `step` under a configuration that is not well formed (43_scan_decoder.md R260, 00_scope.md R8, 93_implementation_defined.md). Safe. -/
  | illFormedConfiguration
  deriving DecidableEq, Repr

/-- The machine right after reset: every element at its value of R351, nothing offered, held or emitted. -/
def State.reset : State where
  blk := Block.reset
  cfg := Config.initial
  inputs := []
  held := []
  out := []

end Sys2Proof.Machine
end

