-- ==== Sys2Proof/Machine/Flags.lean ====
section
/-! DEFINITION. The one-bit elements and how rules change them (10_state.md R56): the lock keys' LED bits and release flags (43_scan_decoder.md R271 to R273), the NACK flag (41_bit_sampler.md R185) and the wrapping counters (10_state.md R53). Also the readings the spec derives from the state. -/

namespace Sys2Proof.Machine

/-- One of the three lock keys (00_scope.md R18). -/
inductive Lock where
  | caps | num | scroll
  deriving DecidableEq, Repr

/-- Which lock key an identity is, if any (43_scan_decoder.md R270). -/
def lockOf (c : Config) (k : KeyId) : Option Lock :=
  if k = c.keyCaps then some .caps
  else if k = c.keyNum then some .num
  else if k = c.keyScroll then some .scroll
  else none

/-- LED_k. -/
def Block.led (k : Block) : Lock → Bool
  | .caps => k.ledCaps
  | .num => k.ledNum
  | .scroll => k.ledScroll

/-- REL_k. -/
def Block.rel (k : Block) : Lock → Bool
  | .caps => k.relCaps
  | .num => k.relNum
  | .scroll => k.relScroll

/-- LED_k <- v. -/
def Block.setLed (k : Block) (l : Lock) (v : Bool) : Block :=
  match l with
  | .caps => { k with ledCaps := v }
  | .num => { k with ledNum := v }
  | .scroll => { k with ledScroll := v }

/-- REL_k <- v. -/
def Block.setRel (k : Block) (l : Lock) (v : Bool) : Block :=
  match l with
  | .caps => { k with relCaps := v }
  | .num => { k with relNum := v }
  | .scroll => { k with relScroll := v }

/-- LOCK_PRESS(k) (R271): the LED bit is negated (R273) if the last observation was a release. -/
def Block.lockPress (k : Block) (l : Lock) : Block :=
  (if k.rel l then k.setLed l (!k.led l) else k).setRel l false

/-- LOCK_RELEASE(k) (R272). -/
def Block.lockRelease (k : Block) (l : Lock) : Block :=
  k.setRel l true

/-- T_NACK after the acknowledgment bit d: set if d is not ACK_LEVEL, else unchanged (41_bit_sampler.md R185). -/
def nackAfter (c : Config) (old d : Bool) : Bool :=
  old || d != c.ackLevel

/-- A diagnostic counter after one more count; it wraps from 255 to 0 (10_state.md R53). -/
def countUp (n : BitVec 8) : BitVec 8 := n + 1#8

/-- A counter after a frame: one more if the error is there (41_bit_sampler.md R172). -/
def countIf (e : Bool) (n : BitVec 8) : BitVec 8 := if e then countUp n else n

/-- Busy: SEQ_PHASE is not IDLE (00_scope.md R18). -/
def Block.busy (k : Block) : Bool := k.seqPhase != .idle

/-- The host drives the Line exactly in INHIBIT and TRANSMITTING (10_state.md R32). -/
def Block.hostDrives (k : Block) : Bool := k.bsMode == .inhibit || k.bsMode == .transmitting

/-- A line's level: low if either end pulls it low (20_memory.md R82). `dev` is the level the device's end alone would leave. -/
def lineLevel (drv dev : Bool) : Bool := !drv && dev

/-- The control-state tuple (10_state.md R55). -/
def Block.controlState (k : Block) :
    SeqPhase × AwaitSub × TKind × Bool × BsMode × BitVec 4 × BitVec 4 :=
  (k.seqPhase, k.awaitSub, k.tKind, k.tDataV, k.bsMode, k.rxIdx, k.txIdx)

end Sys2Proof.Machine
end

