-- ==== Sys2Proof/Machine/Framer.lean ====
section
/-! DEFINITION. The framer: parity, encode and decode of a frame (spec/40_framer.md). It holds no state. -/

namespace Sys2Proof.Machine

/-- The odd-parity bit of a byte (R151): 1 ^ b[0] ^ … ^ b[7]. -/
def parity (b : Byte) : Bool :=
  true ^^ b.getLsbD 0 ^^ b.getLsbD 1 ^^ b.getLsbD 2 ^^ b.getLsbD 3
    ^^ b.getLsbD 4 ^^ b.getLsbD 5 ^^ b.getLsbD 6 ^^ b.getLsbD 7

/-- encode(b) (R150): (1 << 10) | (parity(b) << 9) | (b << 1). -/
def encodeFrame (b : Byte) : Frame :=
  (1#11 <<< 10) ||| ((BitVec.ofBool (parity b)).setWidth 11 <<< 9) ||| (b.setWidth 11 <<< 1)

/-- What `decode` answers (R152). -/
inductive Decoded where
  | byte (b : Byte)
  | bad (perr serr : Bool)
  deriving DecidableEq, Repr

/-- decode(F) (R152). F[0], the start bit, is not read (R153). -/
def decodeFrame (f : Frame) : Decoded :=
  let b := f.extractLsb' 1 8
  let perr := f.getLsbD 9 != parity b
  let serr := f.getLsbD 10 != true
  if !perr && !serr then .byte b else .bad perr serr

/-- The bits of a frame in the order they travel, frame bit 0 first (20_memory.md R83). -/
def wireBits (f : Frame) : List Bool :=
  [f.getLsbD 0, f.getLsbD 1, f.getLsbD 2, f.getLsbD 3, f.getLsbD 4, f.getLsbD 5,
   f.getLsbD 6, f.getLsbD 7, f.getLsbD 8, f.getLsbD 9, f.getLsbD 10]

end Sys2Proof.Machine
end

