-- ==== Sys2Proof/WellFormed.lean ====
section
/-! DEFINITION. What the spec requires of a configuration (00_scope.md R8, 43_scan_decoder.md R260, 93_implementation_defined.md) and of an instruction, as decidable checks. -/

namespace Sys2Proof

/-- No value stands twice in the list. -/
def distinct {α : Type} [DecidableEq α] : List α → Bool
  | [] => true
  | x :: xs => !xs.contains x && distinct xs

/-- The 2·N codes of a key table, every make and every break (R260 (b)). -/
def KeyEntry.codes : List KeyEntry → List Code
  | [] => []
  | e :: es => e.make :: e.brk :: KeyEntry.codes es

/-- x is a proper leading part of y: y >> (8·k) = x for some k ≥ 1 (R260 (d)). A code has three bytes, so only k = 1 and k = 2 leave a nonzero value. -/
def leadingPart (x y : Code) : Bool :=
  x != y && (y >>> 8 == x || y >>> 16 == x)

/-- RESP_ACK, RESP_RESEND and RESP_READY are pairwise distinct (R8). -/
def Config.respDistinct (c : Config) : Bool :=
  distinct [c.respAck, c.respResend, c.respReady]

/-- MAX_RESEND fits the 2-bit T_RESENDS (10_state.md R44), and SCAN_BUF_MAX is 1 to 3, the byte counts that the 24-bit SB_ACC and the 2-bit SB_LEN can hold (10_state.md R52). DEDUCED, log entry 16. -/
def Config.boundsFit (c : Config) : Bool :=
  decide (c.maxResend ≤ 3) && decide (1 ≤ c.scanBufMax) && decide (c.scanBufMax ≤ 3)

/-- R260 (a): every code is in 1 .. 2^(8·SCAN_BUF_MAX) − 1. -/
def Config.codesInRange (c : Config) : Bool :=
  (KeyEntry.codes c.keyTable).all fun x =>
    decide (1 ≤ x.toNat) && decide (x.toNat < 2 ^ (8 * c.scanBufMax))

/-- R260 (b): the codes are pairwise distinct. -/
def Config.codesDistinct (c : Config) : Bool :=
  distinct (KeyEntry.codes c.keyTable)

/-- R260 (c): the ids are pairwise distinct. -/
def Config.idsDistinct (c : Config) : Bool :=
  distinct (c.keyTable.map KeyEntry.id)

/-- R260 (d): no code is a proper leading part of another. -/
def Config.prefixFree (c : Config) : Bool :=
  (KeyEntry.codes c.keyTable).all fun x => (KeyEntry.codes c.keyTable).all fun y => !leadingPart x y

/-- R260 (e): the lock ids are pairwise distinct. -/
def Config.locksDistinct (c : Config) : Bool :=
  distinct [c.keyCaps, c.keyNum, c.keyScroll]

/-- The configuration is well formed. A model refuses one that is not (93_implementation_defined.md). -/
def Config.wf (c : Config) : Bool :=
  c.respDistinct && c.boundsFit && c.codesInRange && c.codesDistinct && c.idsDistinct
    && c.prefixFree && c.locksDistinct

/-- The eight command bytes are pairwise distinct. The spec does NOT require this; it is what reading a command back from its byte needs. -/
def Config.commandsDistinct (c : Config) : Bool :=
  distinct [c.cmdReset, c.cmdEnable, c.cmdDisable, c.cmdSetDefault, c.cmdSetLeds,
    c.cmdSetTypematic, c.cmdReadId, c.cmdResend]

/-- Well-formedness of an instruction. Every operand's type has exactly the width the table gives it (a KB_SETLEDS cannot hold a nonzero A[7:3], an LED_DATA no bit above 2), so there is nothing left to check, and an ill-formed WORD is refused by the decoder. -/
def Instr.wellFormed : Instr → Bool
  | .kbReset | .kbEnable | .kbDisable | .kbDefaults | .kbSetleds _ _ _ | .kbTypematic _ _
  | .kbReadid | .kbResend | .qLocks | .qResult | .qStatus | .qDev | .qDiag | .qXlat _
  | .fall _ | .inhdone | .timeout | .rst | .cmdReset | .cmdEnable | .cmdDisable
  | .cmdSetDefault | .cmdSetLeds | .cmdSetTypematic | .cmdReadId | .cmdResend
  | .ledData _ _ _ | .typematicData _ _ | .respAck | .respResend | .respReady => true

end Sys2Proof
end

