-- ==== Sys2Proof/Decode.lean ====
section
/-! DEFINITION. Reading an input's bits as a row of the opcode table (30_encoding.md R104 to R113, R131), total, each refusal by name; after it the encoder, from the same tables; then the two names the host reads the decoder through. -/

namespace Sys2Proof

/-- Why an input's bits are no row of the opcode table. -/
inductive Reject where
  /-- OP is 0x0 or 0xF (30_encoding.md R112) -/
  | reservedOp
  /-- bits 7:4 of a request word are not 0 (R112) -/
  | reservedField
  /-- a must-be-zero operand bit of a request word is 1 (R112) -/
  | operandBits
  /-- event kind 0 with EV[2] = 0: no event (R131) -/
  | noEvent
  /-- EV[2] = 1 with kind 0, 2 or 3 (R131) -/
  | reservedEvent
  /-- RST = 0: reset is not asserted -/
  | noReset
  /-- a byte that is none of the eight commands (R104) -/
  | notACommand
  /-- bits 7:3 of an LED data byte are not 0 (R105) -/
  | notLedData
  /-- bit 7 of a typematic data byte is not 0 (R106) -/
  | notTypematicData
  /-- a device byte that is none of the three response codes (R107): an ID byte, a scan byte, any other answer -/
  | notAResponseCode
  deriving DecidableEq, Repr

/-! ### Request words (R109 to R113) -/

/-- A row of R110's operation map: the words w with (w & mask) = pattern are the row's. -/
structure ReqRow where
  mnemonic : String
  pattern  : ReqWord
  mask     : ReqWord
  deriving DecidableEq, Repr

/-- A word w selects a row when (w & mask) == match (R110). -/
def ReqRow.selects (r : ReqRow) (w : ReqWord) : Bool :=
  w &&& r.mask == r.pattern

/-- R110's map, the transaction requests. -/
def transactionRows : List ReqRow :=
  [⟨"KB_RESET", 0x000001#24, 0xFFFFFF#24⟩,
   ⟨"KB_ENABLE", 0x000002#24, 0xFFFFFF#24⟩,
   ⟨"KB_DISABLE", 0x000003#24, 0xFFFFFF#24⟩,
   ⟨"KB_DEFAULTS", 0x000004#24, 0xFFFFFF#24⟩,
   ⟨"KB_SETLEDS", 0x000005#24, 0xFFF8FF#24⟩,
   ⟨"KB_TYPEMATIC", 0x000006#24, 0x0000FF#24⟩,
   ⟨"KB_READID", 0x000007#24, 0xFFFFFF#24⟩,
   ⟨"KB_RESEND", 0x000008#24, 0xFFFFFF#24⟩]

/-- R110's map, the query requests. -/
def queryRows : List ReqRow :=
  [⟨"Q_LOCKS", 0x000009#24, 0xFFFFFF#24⟩,
   ⟨"Q_RESULT", 0x00000A#24, 0xFFFFFF#24⟩,
   ⟨"Q_STATUS", 0x00000B#24, 0xFFFFFF#24⟩,
   ⟨"Q_DEV", 0x00000C#24, 0xFFFFFF#24⟩,
   ⟨"Q_DIAG", 0x00000D#24, 0xFFFFFF#24⟩,
   ⟨"Q_XLAT", 0x00000E#24, 0xFF00FF#24⟩]

/-- R110's operation map. -/
def requestRows : List ReqRow := transactionRows ++ queryRows

/-- OP, bits 3:0 (R109). -/
def reqOp (w : ReqWord) : BitVec 4 := w.extractLsb' 0 4

/-- RSVD, bits 7:4 (R109). -/
def reqRsvd (w : ReqWord) : BitVec 4 := w.extractLsb' 4 4

/-- A, bits 15:8 (R109). -/
def reqA (w : ReqWord) : Byte := w.extractLsb' 8 8

/-- B, bits 23:16 (R109). -/
def reqB (w : ReqWord) : Byte := w.extractLsb' 16 8

/-- The name of a rejected word's fault (R112). -/
def rejectReq (w : ReqWord) : Reject :=
  if reqOp w = 0x0#4 ∨ reqOp w = 0xF#4 then .reservedOp
  else if reqRsvd w ≠ 0#4 then .reservedField
  else .operandBits

/-- Decoding a request word: the row whose match and mask accept it, else rejected (R113). -/
def decodeReq (w : ReqWord) : Except Reject Instr :=
  if w = 0x000001#24 then .ok .kbReset
  else if w = 0x000002#24 then .ok .kbEnable
  else if w = 0x000003#24 then .ok .kbDisable
  else if w = 0x000004#24 then .ok .kbDefaults
  else if w &&& 0xFFF8FF#24 = 0x000005#24 then
    .ok (.kbSetleds ((reqA w).getLsbD 0) ((reqA w).getLsbD 1) ((reqA w).getLsbD 2))
  else if w &&& 0x0000FF#24 = 0x000006#24 then .ok (.kbTypematic (reqA w) (reqB w))
  else if w = 0x000007#24 then .ok .kbReadid
  else if w = 0x000008#24 then .ok .kbResend
  else if w = 0x000009#24 then .ok .qLocks
  else if w = 0x00000A#24 then .ok .qResult
  else if w = 0x00000B#24 then .ok .qStatus
  else if w = 0x00000C#24 then .ok .qDev
  else if w = 0x00000D#24 then .ok .qDiag
  else if w &&& 0xFF00FF#24 = 0x00000E#24 then .ok (.qXlat (reqA w))
  else .error (rejectReq w)

/-! ### Events and reset (R130, R131) -/

/-- EV[1:0] is the kind, EV[2] is d for a Fall and must be 0 for the other kinds (R131). -/
def decodeEvent (ev : BitVec 3) : Except Reject Instr :=
  if ev.extractLsb' 0 2 = 1#2 then .ok (.fall (ev.getLsbD 2))
  else if ev.getLsbD 2 then .error .reservedEvent
  else if ev.extractLsb' 0 2 = 2#2 then .ok .inhdone
  else if ev.extractLsb' 0 2 = 3#2 then .ok .timeout
  else .error .noEvent

/-- RST = 1 is the reset event (R131, R140). -/
def decodeReset (r : BitVec 1) : Except Reject Instr :=
  if r = 1#1 then .ok .rst else .error .noReset

/-! ### Wire bytes (R104 to R107) -/

/-- The LED data byte (R105): (caps << 2) | (num << 1) | scroll. -/
def ledByte (caps num scroll : Bool) : Byte :=
  ((BitVec.ofBool caps).setWidth 8 <<< 2) ||| ((BitVec.ofBool num).setWidth 8 <<< 1)
    ||| (BitVec.ofBool scroll).setWidth 8

/-- The typematic data byte (R106): (delay << 5) | rate. -/
def tmByte (rate : BitVec 5) (delay : BitVec 2) : Byte :=
  (delay.setWidth 8 <<< 5) ||| rate.setWidth 8

/-- A host byte in command position is the command whose parameter it equals (R104). Where two parameters are equal the first in R104's order is read; the byte, and so its effect, is the same. -/
def decodeCommand (c : Config) (b : Byte) : Except Reject Instr :=
  if b = c.cmdReset then .ok .cmdReset
  else if b = c.cmdEnable then .ok .cmdEnable
  else if b = c.cmdDisable then .ok .cmdDisable
  else if b = c.cmdSetDefault then .ok .cmdSetDefault
  else if b = c.cmdSetLeds then .ok .cmdSetLeds
  else if b = c.cmdSetTypematic then .ok .cmdSetTypematic
  else if b = c.cmdReadId then .ok .cmdReadId
  else if b = c.cmdResend then .ok .cmdResend
  else .error .notACommand

/-- A host byte in the place of the LED data byte: match 0x00, mask 0xF8 (R105). -/
def decodeLedData (b : Byte) : Except Reject Instr :=
  if b &&& 0xF8#8 = 0x00#8 then .ok (.ledData (b.getLsbD 2) (b.getLsbD 1) (b.getLsbD 0))
  else .error .notLedData

/-- A host byte in the place of the typematic data byte: match 0x00, mask 0x80 (R106). -/
def decodeTypematicData (b : Byte) : Except Reject Instr :=
  if b &&& 0x80#8 = 0x00#8 then .ok (.typematicData (b.extractLsb' 0 5) (b.extractLsb' 5 2))
  else .error .notTypematicData

/-- A device byte that is one of the three response codes (R107). -/
def decodeDeviceByte (c : Config) (b : Byte) : Except Reject Instr :=
  if b = c.respAck then .ok .respAck
  else if b = c.respResend then .ok .respResend
  else if b = c.respReady then .ok .respReady
  else .error .notAResponseCode

/-- The decoder: each port's bits by that port's encoding. -/
def decode (c : Config) : Input → Except Reject Instr
  | .req w => decodeReq w
  | .event ev => decodeEvent ev
  | .reset r => decodeReset r
  | .hostCommand b => decodeCommand c b
  | .hostLedData b => decodeLedData b
  | .hostTypematicData b => decodeTypematicData b
  | .deviceByte b => decodeDeviceByte c b

/-! ### The encoder -/

/-- The request word of the fields OP, A and B, RSVD being 0 (R109). -/
def packReq (op : BitVec 4) (a b : Byte) : ReqWord :=
  (b.setWidth 24 <<< 16) ||| (a.setWidth 24 <<< 8) ||| op.setWidth 24

/-- KB_SETLEDS's operand A: A[0] = caps, A[1] = num, A[2] = scroll (R110). -/
def ledOperand (caps num scroll : Bool) : Byte :=
  (BitVec.ofBool caps).setWidth 8 ||| ((BitVec.ofBool num).setWidth 8 <<< 1)
    ||| ((BitVec.ofBool scroll).setWidth 8 <<< 2)

/-- The bits of an instruction on its port. -/
def encode (c : Config) : Instr → Input
  | .kbReset => .req (packReq 0x1#4 0#8 0#8)
  | .kbEnable => .req (packReq 0x2#4 0#8 0#8)
  | .kbDisable => .req (packReq 0x3#4 0#8 0#8)
  | .kbDefaults => .req (packReq 0x4#4 0#8 0#8)
  | .kbSetleds caps num scroll => .req (packReq 0x5#4 (ledOperand caps num scroll) 0#8)
  | .kbTypematic rate delay => .req (packReq 0x6#4 rate delay)
  | .kbReadid => .req (packReq 0x7#4 0#8 0#8)
  | .kbResend => .req (packReq 0x8#4 0#8 0#8)
  | .qLocks => .req (packReq 0x9#4 0#8 0#8)
  | .qResult => .req (packReq 0xA#4 0#8 0#8)
  | .qStatus => .req (packReq 0xB#4 0#8 0#8)
  | .qDev => .req (packReq 0xC#4 0#8 0#8)
  | .qDiag => .req (packReq 0xD#4 0#8 0#8)
  | .qXlat key => .req (packReq 0xE#4 key 0#8)
  | .fall d => .event (((BitVec.ofBool d).setWidth 3 <<< 2) ||| 1#3)
  | .inhdone => .event 2#3
  | .timeout => .event 3#3
  | .rst => .reset 1#1
  | .cmdReset => .hostCommand c.cmdReset
  | .cmdEnable => .hostCommand c.cmdEnable
  | .cmdDisable => .hostCommand c.cmdDisable
  | .cmdSetDefault => .hostCommand c.cmdSetDefault
  | .cmdSetLeds => .hostCommand c.cmdSetLeds
  | .cmdSetTypematic => .hostCommand c.cmdSetTypematic
  | .cmdReadId => .hostCommand c.cmdReadId
  | .cmdResend => .hostCommand c.cmdResend
  | .ledData caps num scroll => .hostLedData (ledByte caps num scroll)
  | .typematicData rate delay => .hostTypematicData (tmByte rate delay)
  | .respAck => .deviceByte c.respAck
  | .respResend => .deviceByte c.respResend
  | .respReady => .deviceByte c.respReady

/-! ### The opcode table's words -/

/-- The port that a word of the opcode table arrives at. A request row has 24 bits. The table's other rows have 8 bits or fewer and the bits alone do not name the port: 0x01 is FALL 0 and RST, 0xFE is CMD_RESEND and RESP_RESEND, 0x00 is LED_DATA and TYPEMATIC_DATA. Of two rows of one word, the one listed first here is read (log entry 13). -/
def tableInput (nbits w : Nat) : Input :=
  if 8 < nbits then .req (BitVec.ofNat 24 w)
  else if nbits = 1 then .reset (BitVec.ofNat 1 w)
  else if nbits ≤ 3 then .event (BitVec.ofNat 3 w)
  else if w = 1 ∨ w = 2 ∨ w = 3 ∨ w = 5 then .event (BitVec.ofNat 3 w)
  else if w < 8 then .hostLedData (BitVec.ofNat 8 w)
  else if w < 0x80 then .hostTypematicData (BitVec.ofNat 8 w)
  else if w = 0xFA ∨ w = 0xFE ∨ w = 0xAA then .deviceByte (BitVec.ofNat 8 w)
  else .hostCommand (BitVec.ofNat 8 w)

/-- The instruction the decoder reads from a table row's word, under the configuration with the spec's default bytes. -/
def decodeTableWord (nbits w : Nat) : Option Instr :=
  if w < 2 ^ nbits then
    match decode Config.initial (tableInput nbits w) with
    | .ok i => some i
    | .error _ => none
  else none

end Sys2Proof
end

