-- ==== Sys2Proof/Machine/Operands.lean ====
section
/-! DEFINITION. Operand forms and word layouts: the typematic substitution (42_sequencer.md R207), the numbers of the enumerations (spec/10_state.md) and the response words of 30_encoding.md R114 to R121. The data-byte packings of R105 and R106 stand beside the decoder (`ledByte`, `tmByte`). -/

namespace Sys2Proof.Machine

/-! ### KB_TYPEMATIC's operands (R207) -/

/-- rate = (r <= 0x1F) ? r : TM_RATE_DEFAULT. -/
def substRate (r : Byte) : BitVec 5 :=
  if r ≤ 0x1F#8 then r.setWidth 5 else tmRateDefault

/-- delay = (d <= 0x03) ? d : TM_DELAY_DEFAULT. -/
def substDelay (d : Byte) : BitVec 2 :=
  if d ≤ 0x03#8 then d.setWidth 2 else tmDelayDefault

/-! ### The numbers of the enumerations -/

/-- BS_MODE's values (10_state.md R33). -/
def BsMode.num : BsMode → BitVec 3
  | .idle => 0#3
  | .receiving => 1#3
  | .inhibit => 2#3
  | .transmitting => 3#3
  | .ack => 4#3

/-- SEQ_PHASE's values (R38). -/
def SeqPhase.num : SeqPhase → BitVec 2
  | .idle => 0#2
  | .inhibit => 1#2
  | .sending => 2#2
  | .await => 3#2

/-- AWAIT_SUB's values (R39). -/
def AwaitSub.num : AwaitSub → BitVec 2
  | .awAck => 0#2
  | .awReady => 1#2
  | .awId0 => 2#2
  | .awId1 => 3#2

/-- T_KIND's values (R40). -/
def TKind.num : TKind → BitVec 2
  | .generic => 0#2
  | .twoPhase => 1#2
  | .reset => 2#2
  | .readId => 3#2

/-- The result codes' values (30_encoding.md R116). -/
def ResultCode.num : ResultCode → BitVec 4
  | .none => 0#4
  | .ack => 1#4
  | .ready => 2#4
  | .deviceId => 3#4
  | .protocolError => 4#4
  | .resendLimit => 5#4
  | .timeout => 6#4
  | .rejected => 7#4

/-! ### Response words (R114 to R121): a field placed at its lowest bit, every other bit 0 -/

/-- A field of a response word, its bit 0 at bit `lo`. -/
def field {n : Nat} (v : BitVec n) (lo : Nat) : RespWord :=
  v.setWidth 32 <<< lo

/-- A one-bit field of a response word. -/
def flag (v : Bool) (lo : Nat) : RespWord :=
  field (BitVec.ofBool v) lo

/-- The result word (R115): CODE 3:0, NACK 4, BYTE 15:8, ID 31:16. -/
def resultWord (code : ResultCode) (nack : Bool) (byte : Byte) (id : BitVec 16) : RespWord :=
  field code.num 0 ||| flag nack 4 ||| field byte 8 ||| field id 16

/-- The Q_LOCKS word (R118). -/
def locksWord (k : Block) : RespWord :=
  flag k.ledCaps 0 ||| flag k.ledNum 1 ||| flag k.ledScroll 2

/-- The Q_STATUS word (R117, R293). -/
def statusWord (k : Block) : RespWord :=
  field k.seqPhase.num 0 ||| field k.awaitSub.num 2 ||| field k.bsMode.num 4
    ||| flag k.tDataV 7 ||| field k.rxIdx 8 ||| field k.txIdx 12 ||| field k.tKind.num 16
    ||| field k.tResends 18 ||| flag k.tNack 20 ||| flag k.clkDrv 21 ||| flag k.datDrv 22
    ||| field k.tLast 24

/-- The Q_DEV word (R119, R294). -/
def devWord (k : Block) : RespWord :=
  field k.tmRate 0 ||| field k.tmDelay 5 ||| flag k.relCaps 8 ||| flag k.relNum 9
    ||| flag k.relScroll 10 ||| field k.devId 16

/-- The Q_DIAG word (R120, R295). -/
def diagWord (k : Block) : RespWord :=
  field k.perrCnt 0 ||| field k.serrCnt 8 ||| field k.desyncCnt 16 ||| field k.sbLen 24

/-- The Q_XLAT word (R121, R296): the character in 7:0 and VALID in bit 8, or 0 for null. -/
def xlatWord : Option Byte → RespWord
  | none => 0#32
  | some ch => field ch 0 ||| flag true 8

end Sys2Proof.Machine
end

