-- ==== Sys2Proof/Machine/Ops.lean ====
section
/-! DEFINITION. The shared operations over the state: outputs (00_scope.md R15), TX_BYTE and BS_ABORT (41_bit_sampler.md R180, R187), BEGIN and FINISH (42_sequencer.md R200, R215), the hold on transaction requests (R201) and reset (70_reset_and_hazards.md R350). The block has no traps: FINISH is the completion reporting that stands in the place of taking an exception (60_exceptions.md R322), and nothing returns from it (R323). Each operation updates the record in the rule's textual order; no rule reads an element after writing it, so this is the simultaneous write of 00_scope.md R13 (log entry 17). -/

namespace Sys2Proof.Machine

/-- The outcome of a step of this machine. -/
abbrev Result := Host.Outcome State Fault Refusal

/-- One operation after another; a stop ends the sequence. -/
def andThen (r : Result) (f : State → Result) : Result :=
  match r with
  | .next s => f s
  | .fault e => .fault e
  | .refused e => .refused e

/-! ### Updates of the state -/

/-- The block's elements replaced. -/
def State.withBlk (s : State) (k : Block) : State := { s with blk := k }

/-- The item appended to the outputs (00_scope.md R15). -/
def State.emit (s : State) (o : Output) : State := { s with out := s.out ++ [o] }

/-- The requests waiting at the host replaced. -/
def State.withHeld (s : State) (h : List ReqWord) : State := { s with held := h }

/-- The inputs still to come replaced. -/
def State.withInputs (s : State) (is : List Input) : State := { s with inputs := is }

/-! ### The bit sampler's shared operations -/

/-- TX_BYTE(b) (41_bit_sampler.md R180): begin sending b, starting with the inhibit. -/
def Block.txByte (b : Byte) (k : Block) : Block :=
  { k with
    txFrame := encodeFrame b
    tLast := b
    txIdx := 0#4
    rxShift := 0#11
    rxIdx := 0#4
    clkDrv := true
    datDrv := false
    bsMode := .inhibit
    seqPhase := .inhibit }

/-- BS_ABORT() (41_bit_sampler.md R187): end any host-driven phase; in IDLE or RECEIVING nothing changes. -/
def Block.bsAbort (k : Block) : Block :=
  match k.bsMode with
  | .inhibit | .transmitting | .ack =>
    { k with
      clkDrv := false
      datDrv := false
      txIdx := 0#4
      rxIdx := 0#4
      rxShift := 0#11
      bsMode := .idle }
  | .idle | .receiving => k

/-! ### The sequencer's shared operations -/

/-- BEGIN(kind, cmd, data_v, data) (42_sequencer.md R200). -/
def Block.begin (kind : TKind) (cmd : Byte) (dataV : Bool) (data : Byte) (k : Block) : Block :=
  Block.txByte cmd
    { k with
      tCmd := cmd
      tKind := kind
      tData := data
      tDataV := dataV
      awaitSub := .awAck
      tResends := 0#2
      tIdlo := 0x00#8
      tNack := false }

/-- The elements FINISH clears, RESULT being w (42_sequencer.md R215). -/
def Block.finishWith (w : RespWord) (k : Block) : Block :=
  { k with
    result := w
    seqPhase := .idle
    awaitSub := .awAck
    tKind := .generic
    tData := 0x00#8
    tDataV := false
    tResends := 0#2
    tIdlo := 0x00#8
    tNack := false }

/-- FINISH(code, byte, id) (42_sequencer.md R215): RESULT is written and Done emitted, in this step (60_exceptions.md R322). -/
def finish (code : ResultCode) (byte : Byte) (id : BitVec 16) (s : State) : State :=
  let w := resultWord code s.blk.tNack byte id
  (s.withBlk (s.blk.finishWith w)).emit (.done w)

/-- A transaction request w on the port, `accept` being what its acceptance does (42_sequencer.md R200, R201).
Idle, it is accepted. Busy, it is HELD: the block does nothing and the request stays pending at the host, in `held`. The host offering the held request again is not a second request. A further, different request waits behind the held one, for the port holds one (93_implementation_defined.md; log entries 7 to 9). DESIGN CHOICE: if such a request already waits behind the held one, this offer of it is one more request and is appended again (log entry 27). -/
def offer (w : ReqWord) (accept : State → State) (s : State) : Result :=
  match s.held with
  | [] =>
    if s.blk.seqPhase = .idle then .next (accept s) else .next (s.withHeld [w])
  | v :: rest =>
    if v = w then
      if s.blk.seqPhase = .idle then .next (accept (s.withHeld rest)) else .next s
    else .next (s.withHeld (v :: rest ++ [w]))

/-- respond(w) (00_scope.md R15). -/
def respond (w : RespWord) (s : State) : Result := .next (s.emit (.resp w))

/-- A rejected request (44_queries.md R297): CODE = REJECTED, every other field 0, nothing else. -/
def rejectRequest (s : State) : Result := respond (resultWord .rejected false 0#8 0#16) s

/-- Rst (70_reset_and_hazards.md R350): every element of the block at its reset value; nothing is emitted, and a request held at the host stays there. -/
def resetBlock (s : State) : State := s.withBlk Block.reset

end Sys2Proof.Machine
end

