-- ==== Sys2Proof/Machine/Scan.lean ====
section
/-! DEFINITION. The scan-code decoder (spec/43_scan_decoder.md): MATCH, SCAN_BYTE, RESOLVE and XLAT. LOCK_PRESS and LOCK_RELEASE stand in Machine/Flags.lean. -/

namespace Sys2Proof.Machine

/-- What MATCH answers (R261). -/
inductive KeyMatch where
  | press (id : KeyId)
  | release (id : KeyId)
  | none
  deriving DecidableEq, Repr

/-- The first entry whose make code is acc. -/
def findMake (acc : Code) : List KeyEntry → Option KeyId
  | [] => none
  | e :: es => if e.make = acc then some e.id else findMake acc es

/-- The first entry whose break code is acc. -/
def findBreak (acc : Code) : List KeyEntry → Option KeyId
  | [] => none
  | e :: es => if e.brk = acc then some e.id else findBreak acc es

/-- MATCH(acc) (R261). -/
def matchCode (table : List KeyEntry) (acc : Code) : KeyMatch :=
  match findMake acc table with
  | some k => .press k
  | none =>
    match findBreak acc table with
    | some k => .release k
    | none => .none

/-- RESOLVE(k, p) (R270): a lock key is intercepted, any other key is forwarded (R274). -/
def resolve (k : KeyId) (p : Bool) (s : State) : State :=
  match lockOf s.cfg k with
  | some l => s.withBlk (if p then s.blk.lockPress l else s.blk.lockRelease l)
  | none => s.emit (.key k p)

/-- SB_ACC <- 0; SB_LEN <- 0 (R264). -/
def Block.clearScan (k : Block) : Block := { k with sbAcc := 0#24, sbLen := 0#2 }

/-- The forced clear (R266): the buffer is cleared and DESYNC_CNT counts it. -/
def Block.desync (k : Block) : Block :=
  { k.clearScan with desyncCnt := countUp k.desyncCnt }

/-- The accumulated value with one more byte: ((SB_ACC << 8) | b) mod 2^24 (R264). -/
def Block.scanAcc (k : Block) (b : Byte) : Code := (k.sbAcc <<< 8) ||| b.setWidth 24

/-- Extend (R265): SB_ACC <- acc with the byte b; SB_LEN <- n. -/
def Block.keepByte (b : Byte) (k : Block) : Block :=
  { k with sbAcc := k.scanAcc b, sbLen := k.sbLen + 1#2 }

/-- SCAN_BYTE(b) (R264 to R266): a match is looked for before the bound is. -/
def scanByte (b : Byte) (s : State) : State :=
  match matchCode s.cfg.keyTable (s.blk.scanAcc b) with
  | .press k => resolve k true (s.withBlk s.blk.clearScan)
  | .release k => resolve k false (s.withBlk s.blk.clearScan)
  | .none =>
    if s.cfg.scanBufMax ≤ s.blk.sbLen.toNat + 1 then s.withBlk s.blk.desync
    else s.withBlk (s.blk.keepByte b)

/-- CHAR_MAP(k) (00_scope.md R10). -/
def charMapAt (k : KeyId) : List CharEntry → Option (Byte × Byte)
  | [] => none
  | e :: es => if e.id = k then some (e.lower, e.upper) else charMapAt k es

/-- XLAT(k) (R280): upper exactly for an alphabetic identity while LED_CAPS is 1. -/
def xlat (c : Config) (ledCaps : Bool) (k : KeyId) : Option Byte :=
  match charMapAt k c.charMap with
  | none => none
  | some (lower, upper) => if c.isAlpha.contains k && ledCaps then some upper else some lower

end Sys2Proof.Machine
end

