-- ==== Sys2Proof/Machine/Sequencer.lean ====
section
/-! DEFINITION. How an accepted device byte is interpreted and routed, and how a transaction times out (42_sequencer.md R220 to R232). -/

namespace Sys2Proof.Machine

/-- AWAIT_SUB <- a. -/
def Block.awaitFor (a : AwaitSub) (k : Block) : Block := { k with awaitSub := a }

/-- The data byte of a two-phase command is begun (R220): T_DATA_V <- 0; T_RESENDS <- 0; TX_BYTE(T_DATA). -/
def Block.sendData (k : Block) : Block :=
  Block.txByte k.tData { k with tDataV := false, tResends := 0#2 }

/-- The byte most recently sent is sent again (R221): T_RESENDS <- T_RESENDS + 1; TX_BYTE(T_LAST). -/
def Block.sendAgain (k : Block) : Block :=
  Block.txByte k.tLast { k with tResends := k.tResends + 1#2 }

/-- T_IDLO <- b (R225). -/
def Block.storeIdLow (b : Byte) (k : Block) : Block := { k with tIdlo := b }

/-- DEV_ID <- id (R226). -/
def Block.storeDevId (id : BitVec 16) (k : Block) : Block := { k with devId := id }

/-- RESP_ACK while waiting for an ack (R220). -/
def onAck (s : State) : State :=
  match s.blk.tKind with
  | .reset => s.withBlk (s.blk.awaitFor .awReady)
  | .readId => s.withBlk (s.blk.awaitFor .awId0)
  | .twoPhase =>
    if s.blk.tDataV then s.withBlk s.blk.sendData else finish .ack 0#8 0#16 s
  | .generic => finish .ack 0#8 0#16 s

/-- RESP_RESEND while waiting for an ack (R221): the byte most recently sent is sent again, until the limit. -/
def onResend (b : Byte) (s : State) : State :=
  if s.blk.tResends.toNat < s.cfg.maxResend then s.withBlk s.blk.sendAgain
  else finish .resendLimit b 0#16 s

/-- A response while waiting for an ack: the one of R220 to R223 that applies (R233). -/
def onAwaitAck (b : Byte) (s : State) : State :=
  if b = s.cfg.respAck then onAck s
  else if b = s.cfg.respResend then onResend b s
  else if b = s.cfg.respReady ∧ s.blk.tKind = .reset then finish .ready 0#8 0#16 s
  else finish .protocolError b 0#16 s

/-- A response while waiting for the device-ready byte (R224). -/
def onAwaitReady (b : Byte) (s : State) : State :=
  if b = s.cfg.respReady then finish .ready 0#8 0#16 s else finish .protocolError b 0#16 s

/-- The first device-ID byte (R225). -/
def onId0 (b : Byte) (s : State) : State :=
  s.withBlk ((s.blk.storeIdLow b).awaitFor .awId1)

/-- The second device-ID byte (R226): b is the high byte. -/
def onId1 (b : Byte) (s : State) : State :=
  let id : BitVec 16 := (b.setWidth 16 <<< 8) ||| s.blk.tIdlo.setWidth 16
  finish .deviceId 0#8 id (s.withBlk (s.blk.storeDevId id))

/-- A byte for the sequencer, by what it waits for (R232). -/
def onResponse (b : Byte) (s : State) : State :=
  match s.blk.awaitSub with
  | .awAck => onAwaitAck b s
  | .awReady => onAwaitReady b s
  | .awId0 => onId0 b s
  | .awId1 => onId1 b s

/-- DISPATCH(b) (R232): to the sequencer in AWAIT, to the scan decoder in IDLE; the unreachable branch is the fault the spec names. -/
def dispatch (b : Byte) (s : State) : Result :=
  match s.blk.seqPhase with
  | .await => .next (onResponse b s)
  | .idle => .next (scanByte b s)
  | .inhibit | .sending => .fault .dispatchInSendingPhase

/-- A Timeout event (R228). -/
def onTimeout (s : State) : State :=
  if s.blk.seqPhase = .idle then s
  else finish .timeout 0#8 0#16 (s.withBlk s.blk.bsAbort)

end Sys2Proof.Machine
end

