-- ==== Sys2Proof/Machine/Sampler.lean ====
section
/-! DEFINITION. The bit sampler and line driver (spec/41_bit_sampler.md): what one falling edge and one InhibitDone do, and the edges of a whole wire byte (30_encoding.md R141, 41_bit_sampler.md R188). -/

namespace Sys2Proof.Machine

/-- RX_SHIFT[i] <- d (R171). -/
def setBit (v : BitVec 11) (i : Nat) (d : Bool) : BitVec 11 :=
  (v &&& ~~~(1#11 <<< i)) ||| ((BitVec.ofBool d).setWidth 11 <<< i)

/-- Receive a bit that is not the last of the frame (R171). -/
def Block.receiveBit (d : Bool) (k : Block) : Block :=
  { k with
    rxShift := setBit k.rxShift k.rxIdx.toNat d
    rxIdx := k.rxIdx + 1#4
    bsMode := .receiving }

/-- The receive path made ready for the next frame (R172). -/
def Block.clearRx (k : Block) : Block :=
  { k with rxShift := 0#11, rxIdx := 0#4, bsMode := .idle }

/-- The assembled frame F = RX_SHIFT | (d << 10) (R172). -/
def Block.rxFrame (d : Bool) (k : Block) : Frame :=
  k.rxShift ||| ((BitVec.ofBool d).setWidth 11 <<< 10)

/-- A bad frame is counted (R172; 60_exceptions.md R311, R312). -/
def Block.countBad (perr serr : Bool) (k : Block) : Block :=
  { k with perrCnt := countIf perr k.perrCnt, serrCnt := countIf serr k.serrCnt }

/-- Receive the last bit of a frame (R172): a good frame's byte is dispatched, a bad frame is counted and dropped (60_exceptions.md R311, R312). -/
def receiveLast (d : Bool) (s : State) : Result :=
  match decodeFrame (s.blk.rxFrame d) with
  | .byte b => dispatch b (s.withBlk s.blk.clearRx)
  | .bad perr serr =>
    .next (s.withBlk (s.blk.clearRx.countBad perr serr))

/-- Put out the start bit and release the clock (R181). -/
def Block.startFrame (k : Block) : Block :=
  { k with
    datDrv := true
    clkDrv := false
    txIdx := 1#4
    bsMode := .transmitting
    seqPhase := .sending }

/-- Present the next data or parity bit (R183): a 0 bit pulls the line low. -/
def Block.presentBit (k : Block) : Block :=
  { k with
    datDrv := !k.txFrame.getLsbD k.txIdx.toNat
    txIdx := k.txIdx + 1#4 }

/-- Present the stop bit by releasing data (R184). -/
def Block.presentStop (k : Block) : Block :=
  { k with
    datDrv := false
    txIdx := 11#4
    bsMode := .ack }

/-- Sample the acknowledgment bit and end the transmit (R185). -/
def Block.sampleAck (c : Config) (d : Bool) (k : Block) : Block :=
  { k with
    tNack := nackAfter c k.tNack d
    txIdx := 0#4
    bsMode := .idle
    seqPhase := .await }

/-- A falling clock edge with data level d, by R170's table. -/
def edge (d : Bool) (s : State) : Result :=
  match s.blk.bsMode with
  | .idle =>
    if s.blk.rxIdx.toNat < 10 then .next (s.withBlk (s.blk.receiveBit d))
    else .fault .noRuleForEdge
  | .receiving =>
    if s.blk.rxIdx.toNat < 10 then .next (s.withBlk (s.blk.receiveBit d))
    else if s.blk.rxIdx.toNat = 10 then receiveLast d s
    else .fault .noRuleForEdge
  | .inhibit => .next s
  | .transmitting =>
    if 1 ≤ s.blk.txIdx.toNat ∧ s.blk.txIdx.toNat ≤ 9 then .next (s.withBlk s.blk.presentBit)
    else if s.blk.txIdx.toNat = 10 then .next (s.withBlk s.blk.presentStop)
    else .fault .noRuleForEdge
  | .ack =>
    if s.blk.txIdx.toNat = 11 then .next (s.withBlk (s.blk.sampleAck s.cfg d))
    else .fault .noRuleForEdge

/-- InhibitDone: R181 while inhibiting, R182 at any other time. -/
def inhibitDone (s : State) : State :=
  if s.blk.bsMode = .inhibit then s.withBlk s.blk.startFrame else s

/-! ### Whole wire bytes -/

/-- Falling edges one after another, with these levels. -/
def edges : List Bool → State → Result
  | [], s => .next s
  | d :: ds, s => andThen (edge d s) (edges ds)

/-- DEVFRAME f (30_encoding.md R141): the device sends an 11-bit pattern, frame bit 0 first. -/
def deviceFrame (f : Frame) (s : State) : Result := edges (wireBits f) s

/-- DEVBYTE b (R141): the device sends byte b, one device byte being 11 edges (41_bit_sampler.md R188). -/
def deviceByte (b : Byte) (s : State) : Result := deviceFrame (encodeFrame b) s

/-- The levels of TXCYCLE a's edges: ten zeros, then the acknowledgment bit (R141). -/
def txLevels (a : Bool) : List Bool :=
  [false, false, false, false, false, false, false, false, false, false, a]

/-- TXCYCLE a (R141): the inhibit ends, the device clocks in one frame and answers with ack level a. -/
def txCycle (a : Bool) (s : State) : Result := edges (txLevels a) (inhibitDone s)

/-- A host byte b crossing the wire (41_bit_sampler.md R188): while the block is about to send b, the byte's TXCYCLE; else b is not on the wire and nothing changes (log entry 11). -/
def hostByte (b : Byte) (s : State) : Result :=
  if s.blk.bsMode = .inhibit ∧ s.blk.txFrame = encodeFrame b then txCycle false s else .next s

end Sys2Proof.Machine
end

