-- ==== Sys2Proof/Machine/Events.lean ====
section
/-! DEFINITION. The events and reset (30_encoding.md R130): Fall, InhibitDone, Timeout and Rst. -/

namespace Sys2Proof.Machine

/-- FALL d (41_bit_sampler.md R170). -/
def execFall (d : Bool) (s : State) : Result := edge d s

/-- INHDONE (41_bit_sampler.md R181, R182). -/
def execInhdone (s : State) : Result := .next (inhibitDone s)

/-- TIMEOUT (42_sequencer.md R228). -/
def execTimeout (s : State) : Result := .next (onTimeout s)

/-- RST (70_reset_and_hazards.md R350). -/
def execRst (s : State) : Result := .next (resetBlock s)

end Sys2Proof.Machine
end

