-- ==== Sys2Proof/Machine/Queries.lean ====
section
/-! DEFINITION. The six query requests (44_queries.md R290 to R296): each answers one RESP word from the state before the step and writes nothing. -/

namespace Sys2Proof.Machine

/-- Q_LOCKS (R291). -/
def execQLocks (s : State) : Result := respond (locksWord s.blk) s

/-- Q_RESULT (R292). -/
def execQResult (s : State) : Result := respond s.blk.result s

/-- Q_STATUS (R293). -/
def execQStatus (s : State) : Result := respond (statusWord s.blk) s

/-- Q_DEV (R294). -/
def execQDev (s : State) : Result := respond (devWord s.blk) s

/-- Q_DIAG (R295). -/
def execQDiag (s : State) : Result := respond (diagWord s.blk) s

/-- Q_XLAT k (R296). -/
def execQXlat (k : KeyId) (s : State) : Result :=
  respond (xlatWord (xlat s.cfg s.blk.ledCaps k)) s

end Sys2Proof.Machine
end

