-- ==== Sys2Proof/Machine/Requests.lean ====
section
/-! DEFINITION. The eight transaction requests (42_sequencer.md R202 to R209): each is offered on the port under R200 and R201, with its own BEGIN. -/

namespace Sys2Proof.Machine

/-- KB_RESET (R202). -/
def execKbReset (s : State) : Result :=
  offer (packReq 0x1#4 0#8 0#8)
    (fun t => t.withBlk (t.blk.begin .reset t.cfg.cmdReset false 0#8)) s

/-- KB_ENABLE (R203). -/
def execKbEnable (s : State) : Result :=
  offer (packReq 0x2#4 0#8 0#8)
    (fun t => t.withBlk (t.blk.begin .generic t.cfg.cmdEnable false 0#8)) s

/-- KB_DISABLE (R204). -/
def execKbDisable (s : State) : Result :=
  offer (packReq 0x3#4 0#8 0#8)
    (fun t => t.withBlk (t.blk.begin .generic t.cfg.cmdDisable false 0#8)) s

/-- KB_DEFAULTS (R205). -/
def execKbDefaults (s : State) : Result :=
  offer (packReq 0x4#4 0#8 0#8)
    (fun t => t.withBlk (t.blk.begin .generic t.cfg.cmdSetDefault false 0#8)) s

/-- LED_CAPS <- c; LED_NUM <- n; LED_SCROLL <- s (R206). -/
def Block.setLeds (c n s : Bool) (k : Block) : Block :=
  { k with ledCaps := c, ledNum := n, ledScroll := s }

/-- TM_RATE <- rate; TM_DELAY <- delay (R207). -/
def Block.setTypematic (rate : BitVec 5) (delay : BitVec 2) (k : Block) : Block :=
  { k with tmRate := rate, tmDelay := delay }

/-- KB_SETLEDS c,n,s (R206): the LED bits are written at acceptance. -/
def execKbSetleds (caps num scroll : Bool) (s : State) : Result :=
  offer (packReq 0x5#4 (ledOperand caps num scroll) 0#8)
    (fun t => t.withBlk (Block.begin .twoPhase t.cfg.cmdSetLeds true (ledByte caps num scroll)
      (t.blk.setLeds caps num scroll))) s

/-- KB_TYPEMATIC r,d (R207): an out-of-range value is replaced by its default, each field on its own. -/
def execKbTypematic (r d : Byte) (s : State) : Result :=
  offer (packReq 0x6#4 r d)
    (fun t => t.withBlk (Block.begin .twoPhase t.cfg.cmdSetTypematic true
      (tmByte (substRate r) (substDelay d))
      (t.blk.setTypematic (substRate r) (substDelay d)))) s

/-- KB_READID (R208). -/
def execKbReadid (s : State) : Result :=
  offer (packReq 0x7#4 0#8 0#8)
    (fun t => t.withBlk (t.blk.begin .readId t.cfg.cmdReadId false 0#8)) s

/-- KB_RESEND (R209). -/
def execKbResend (s : State) : Result :=
  offer (packReq 0x8#4 0#8 0#8)
    (fun t => t.withBlk (t.blk.begin .generic t.cfg.cmdResend false 0#8)) s

end Sys2Proof.Machine
end

