-- ==== Sys2Proof/Machine/Wire.lean ====
section
/-! DEFINITION. The opcode table's wire bytes. A device byte is its 11 falling edges (30_encoding.md R141 DEVBYTE), so it is interpreted by R220 to R232 when it completes a frame (log entry 10). A host byte is its InhibitDone and 11 falling edges (R141 TXCYCLE, 41_bit_sampler.md R188) while the block is about to send it (log entry 11). -/

namespace Sys2Proof.Machine

/-- CMD_RESET on the wire (R104, R202). -/
def execCmdReset (s : State) : Result := hostByte s.cfg.cmdReset s

/-- CMD_ENABLE on the wire (R104, R203). -/
def execCmdEnable (s : State) : Result := hostByte s.cfg.cmdEnable s

/-- CMD_DISABLE on the wire (R104, R204). -/
def execCmdDisable (s : State) : Result := hostByte s.cfg.cmdDisable s

/-- CMD_SET_DEFAULT on the wire (R104, R205). -/
def execCmdSetDefault (s : State) : Result := hostByte s.cfg.cmdSetDefault s

/-- CMD_SET_LEDS on the wire (R104, R206). -/
def execCmdSetLeds (s : State) : Result := hostByte s.cfg.cmdSetLeds s

/-- CMD_SET_TYPEMATIC on the wire (R104, R207). -/
def execCmdSetTypematic (s : State) : Result := hostByte s.cfg.cmdSetTypematic s

/-- CMD_READ_ID on the wire (R104, R208). -/
def execCmdReadId (s : State) : Result := hostByte s.cfg.cmdReadId s

/-- CMD_RESEND on the wire (R104, R209). -/
def execCmdResend (s : State) : Result := hostByte s.cfg.cmdResend s

/-- LED_DATA on the wire (R105). -/
def execLedData (caps num scroll : Bool) (s : State) : Result :=
  hostByte (ledByte caps num scroll) s

/-- TYPEMATIC_DATA on the wire (R106). -/
def execTypematicData (rate : BitVec 5) (delay : BitVec 2) (s : State) : Result :=
  hostByte (tmByte rate delay) s

/-- RESP_ACK from the device (R107, R220). -/
def execRespAck (s : State) : Result := deviceByte s.cfg.respAck s

/-- RESP_RESEND from the device (R107, R221). -/
def execRespResend (s : State) : Result := deviceByte s.cfg.respResend s

/-- RESP_READY from the device (R107, R222). -/
def execRespReady (s : State) : Result := deviceByte s.cfg.respReady s

end Sys2Proof.Machine
end

