-- ==== Sys2Proof/Machine/Dispatch.lean ====
section
/-! DEFINITION. One arm per row of the opcode table, each a direct call of that row's meaning. -/

namespace Sys2Proof.Machine

def exec (i : Instr) (s : State) : Host.Outcome State Fault Refusal :=
  match i with
  -- transaction requests
  | .kbReset => Sys2Proof.Machine.execKbReset s
  | .kbEnable => Sys2Proof.Machine.execKbEnable s
  | .kbDisable => Sys2Proof.Machine.execKbDisable s
  | .kbDefaults => Sys2Proof.Machine.execKbDefaults s
  | .kbSetleds caps num scroll => Sys2Proof.Machine.execKbSetleds caps num scroll s
  | .kbTypematic rate delay => Sys2Proof.Machine.execKbTypematic rate delay s
  | .kbReadid => Sys2Proof.Machine.execKbReadid s
  | .kbResend => Sys2Proof.Machine.execKbResend s
  -- query requests
  | .qLocks => Sys2Proof.Machine.execQLocks s
  | .qResult => Sys2Proof.Machine.execQResult s
  | .qStatus => Sys2Proof.Machine.execQStatus s
  | .qDev => Sys2Proof.Machine.execQDev s
  | .qDiag => Sys2Proof.Machine.execQDiag s
  | .qXlat key => Sys2Proof.Machine.execQXlat key s
  -- events and reset
  | .fall d => Sys2Proof.Machine.execFall d s
  | .inhdone => Sys2Proof.Machine.execInhdone s
  | .timeout => Sys2Proof.Machine.execTimeout s
  | .rst => Sys2Proof.Machine.execRst s
  -- host-to-device bytes
  | .cmdReset => Sys2Proof.Machine.execCmdReset s
  | .cmdEnable => Sys2Proof.Machine.execCmdEnable s
  | .cmdDisable => Sys2Proof.Machine.execCmdDisable s
  | .cmdSetDefault => Sys2Proof.Machine.execCmdSetDefault s
  | .cmdSetLeds => Sys2Proof.Machine.execCmdSetLeds s
  | .cmdSetTypematic => Sys2Proof.Machine.execCmdSetTypematic s
  | .cmdReadId => Sys2Proof.Machine.execCmdReadId s
  | .cmdResend => Sys2Proof.Machine.execCmdResend s
  | .ledData caps num scroll => Sys2Proof.Machine.execLedData caps num scroll s
  | .typematicData rate delay => Sys2Proof.Machine.execTypematicData rate delay s
  -- device-to-host bytes
  | .respAck => Sys2Proof.Machine.execRespAck s
  | .respResend => Sys2Proof.Machine.execRespResend s
  | .respReady => Sys2Proof.Machine.execRespReady s

end Sys2Proof.Machine
end

