-- ==== Sys2Proof/Machine/Invariant.lean ====
section
/-! DEFINITION. The invariants of 10_state.md R54, clause by clause, and the range of RX_IDX (R35). A state that violates one is unreachable from reset, and the machine faults in it (93_implementation_defined.md; log entry 14). -/

namespace Sys2Proof.Machine

/-- (a) SEQ_PHASE = INHIBIT iff BS_MODE = INHIBIT. -/
def Block.invA (k : Block) : Bool := decide (k.seqPhase = .inhibit ↔ k.bsMode = .inhibit)

/-- (b) SEQ_PHASE = SENDING iff BS_MODE is TRANSMITTING or ACK. -/
def Block.invB (k : Block) : Bool :=
  decide (k.seqPhase = .sending ↔ (k.bsMode = .transmitting ∨ k.bsMode = .ack))

/-- (c) SEQ_PHASE is IDLE or AWAIT iff BS_MODE is IDLE or RECEIVING. -/
def Block.invC (k : Block) : Bool :=
  decide ((k.seqPhase = .idle ∨ k.seqPhase = .await) ↔ (k.bsMode = .idle ∨ k.bsMode = .receiving))

/-- (d) RX_IDX ≠ 0 iff BS_MODE = RECEIVING. Every bit of RX_SHIFT at an index ≥ RX_IDX is 0. -/
def Block.invD (k : Block) : Bool :=
  decide (k.rxIdx ≠ 0#4 ↔ k.bsMode = .receiving)
    && decide (∀ i : Fin 11, k.rxIdx.toNat ≤ i.val → k.rxShift.getLsbD i.val = false)

/-- (e) CLK_DRV = 1 iff BS_MODE = INHIBIT. -/
def Block.invE (k : Block) : Bool := decide (k.clkDrv = true ↔ k.bsMode = .inhibit)

/-- (f) DAT_DRV = 1 implies BS_MODE = TRANSMITTING. -/
def Block.invF (k : Block) : Bool := decide (k.datDrv = true → k.bsMode = .transmitting)

/-- (g) TX_IDX is in 1..10 if BS_MODE = TRANSMITTING, is 11 if BS_MODE = ACK, and is 0 otherwise. -/
def Block.invG (k : Block) : Bool :=
  match k.bsMode with
  | .transmitting => decide (1 ≤ k.txIdx.toNat ∧ k.txIdx.toNat ≤ 10)
  | .ack => decide (k.txIdx = 11#4)
  | .idle | .receiving | .inhibit => decide (k.txIdx = 0#4)

/-- (h) T_DATA_V = 1 implies T_KIND = TWO_PHASE. -/
def Block.invH (k : Block) : Bool := decide (k.tDataV = true → k.tKind = .twoPhase)

/-- (i) If SEQ_PHASE = IDLE, the transaction's elements are at rest. -/
def Block.invI (k : Block) : Bool :=
  decide (k.seqPhase = .idle →
    k.awaitSub = .awAck ∧ k.tKind = .generic ∧ k.tDataV = false ∧ k.tData = 0#8
      ∧ k.tResends = 0#2 ∧ k.tIdlo = 0#8 ∧ k.tNack = false)

/-- (j) AW_READY only for T_KIND = RESET, AW_ID0 and AW_ID1 only for READ_ID, and only in AWAIT. -/
def Block.invJ (k : Block) : Bool :=
  match k.awaitSub with
  | .awAck => true
  | .awReady => decide (k.tKind = .reset ∧ k.seqPhase = .await)
  | .awId0 | .awId1 => decide (k.tKind = .readId ∧ k.seqPhase = .await)

/-- RX_IDX's range, 0 to 10: "Values 11 to 15 are never held" (R35). R54 bounds TX_IDX in clause (g) but not RX_IDX. -/
def Block.rxInRange (k : Block) : Bool := decide (k.rxIdx.toNat ≤ 10)

/-- 10_state.md R54, all ten clauses, with R35's range. -/
def Block.inv (k : Block) : Bool :=
  k.invA && k.invB && k.invC && k.invD && k.invE && k.invF && k.invG && k.invH && k.invI && k.invJ
    && k.rxInRange

end Sys2Proof.Machine
end

