-- ==== Sys2Proof/Machine/Fetch.lean ====
section
/-! DEFINITION. Taking the next input, and what an input that is no row of the opcode table does. -/

namespace Sys2Proof.Machine

/-- An input that the decoder reads as no row, for the reason r.
A request word is a rejected request (44_queries.md R297). No event and RST = 0 change nothing; a reserved event word is refused (30_encoding.md R131). A byte on the wire that is no row crosses it all the same: a device byte is its 11 edges, a host byte its TXCYCLE (R141; log entries 10, 11 and 19). -/
def onReject (i : Input) (r : Reject) (s : State) : Result :=
  match i with
  | .req _ => rejectRequest s
  | .event _ => if r = .noEvent then .next s else .refused .reservedEventWord
  | .reset _ => .next s
  | .hostCommand b | .hostLedData b | .hostTypematicData b => hostByte b s
  | .deviceByte b => deviceByte b s

/-- Whether the machine runs at all: its configuration is well formed (43_scan_decoder.md R260) and its state satisfies 10_state.md R54 (93_implementation_defined.md). -/
def runnable (s : State) : Bool := s.cfg.wf && s.blk.inv

/-- How the machine stops where it does not run. -/
def stopReason (s : State) : Result :=
  if s.cfg.wf then .fault .stateViolatesR54 else .refused .illFormedConfiguration

end Sys2Proof.Machine
end

