-- ==== Sys2Proof/Machine/Step.lean ====
section
/-! DEFINITION. One step: the next input is taken, decoded and run (00_scope.md R16). -/

namespace Sys2Proof.Machine

/-- The machine takes the input that is next and runs the row it decodes to. With no input offered, nothing happens. -/
def step (s : State) : Host.Outcome State Fault Refusal :=
  if runnable s then
    match s.inputs with
    | [] => .next s
    | i :: rest =>
      match decode s.cfg i with
      | .ok instr => exec instr (s.withInputs rest)
      | .error r => onReject i r (s.withInputs rest)
  else stopReason s

/-- s with the opcode table's word offered as the very next input, before those already offered (log entry 1). -/
def State.withFetchWord (s : State) (nbits w : Nat) : State :=
  s.withInputs (tableInput nbits w :: s.inputs)

end Sys2Proof.Machine
end

