-- ==== Sys2Proof/Machine/Program.lean ====
section
/-! DEFINITION. The spec's one-line-per-input syntax (30_encoding.md R140) and its pseudo-inputs (R141), as the inputs they stand for. -/

namespace Sys2Proof.Machine

/-- A line of R140 or R141. -/
inductive Line where
  | kbReset | kbEnable | kbDisable | kbDefaults
  | kbSetleds (c n s : Bool)
  | kbTypematic (r d : Byte)
  | kbReadid | kbResend
  | qLocks | qResult | qStatus | qDev | qDiag
  | qXlat (k : KeyId)
  /-- `.REQ w` -/
  | rawReq (w : ReqWord)
  /-- `FALL d` -/
  | fall (d : Bool)
  | inhdone | timeout | rst
  /-- `DEVBYTE b` -/
  | devByte (b : Byte)
  /-- `DEVFRAME f` -/
  | devFrame (f : Frame)
  /-- `TXCYCLE a` -/
  | txCycle (a : Bool)
  deriving DecidableEq, Repr

/-- FALL d is the event word EV = (d << 2) | 1 (R140). -/
def fallInput (d : Bool) : Input := .event (((BitVec.ofBool d).setWidth 3 <<< 2) ||| 1#3)

/-- The inputs a line stands for, the first one first. -/
def Line.inputs : Line → List Input
  | .kbReset => [.req 0x000001#24]
  | .kbEnable => [.req 0x000002#24]
  | .kbDisable => [.req 0x000003#24]
  | .kbDefaults => [.req 0x000004#24]
  | .kbSetleds c n s =>
    [.req (0x000005#24 ||| ((BitVec.ofBool c).setWidth 24 <<< 8)
      ||| ((BitVec.ofBool n).setWidth 24 <<< 9) ||| ((BitVec.ofBool s).setWidth 24 <<< 10))]
  | .kbTypematic r d => [.req (0x000006#24 ||| (r.setWidth 24 <<< 8) ||| (d.setWidth 24 <<< 16))]
  | .kbReadid => [.req 0x000007#24]
  | .kbResend => [.req 0x000008#24]
  | .qLocks => [.req 0x000009#24]
  | .qResult => [.req 0x00000A#24]
  | .qStatus => [.req 0x00000B#24]
  | .qDev => [.req 0x00000C#24]
  | .qDiag => [.req 0x00000D#24]
  | .qXlat k => [.req (0x00000E#24 ||| (k.setWidth 24 <<< 8))]
  | .rawReq w => [.req w]
  | .fall d => [fallInput d]
  | .inhdone => [.event 2#3]
  | .timeout => [.event 3#3]
  | .rst => [.reset 1#1]
  | .devByte b => (wireBits (encodeFrame b)).map fallInput
  | .devFrame f => (wireBits f).map fallInput
  | .txCycle a => .event 2#3 :: (txLevels a).map fallInput

/-- The inputs of a sequence of lines. -/
def assemble : List Line → List Input
  | [] => []
  | l :: ls => l.inputs ++ assemble ls

end Sys2Proof.Machine
end

