-- ==== Sys2Proof/Safety.lean ====
section
/-! DEFINITION. What a good state and a safe run are, in the terms the statements use. -/

namespace Sys2Proof.Machine

/-- T_RESENDS stays within 0 to MAX_RESEND (10_state.md R44). -/
def resendsInRange (s : State) : Bool := decide (s.blk.tResends.toNat ≤ s.cfg.maxResend)

/-- Between events, SB_LEN is in 0 to SCAN_BUF_MAX − 1 and SB_ACC < 2^(8·SB_LEN) (10_state.md R52). -/
def scanInRange (s : State) : Bool :=
  decide (s.blk.sbLen.toNat < s.cfg.scanBufMax)
    && decide (s.blk.sbAcc.toNat < 2 ^ (8 * s.blk.sbLen.toNat))

/-- While the host drives a frame, that frame is encode(T_LAST) (10_state.md R36, R43; 41_bit_sampler.md R180). -/
def sendsLastByte (s : State) : Bool :=
  match s.blk.bsMode with
  | .inhibit | .transmitting | .ack => s.blk.txFrame == encodeFrame s.blk.tLast
  | .idle | .receiving => true

/-- While TRANSMITTING, the data line is pulled low exactly while a 0 frame bit is presented, the last presented bit being TX_FRAME[TX_IDX − 1] (41_bit_sampler.md R186). -/
def presentsFrameBit (s : State) : Bool :=
  match s.blk.bsMode with
  | .transmitting => s.blk.datDrv == !s.blk.txFrame.getLsbD (s.blk.txIdx.toNat - 1)
  | .idle | .receiving | .inhibit | .ack => !s.blk.datDrv

/-- RESULT holds no reserved code and not REJECTED, and its undefined bits 7:5 are 0 (30_encoding.md R114 to R116). -/
def resultLegal (s : State) : Bool :=
  decide ((s.blk.result.extractLsb' 0 4).toNat ≤ 6) && s.blk.result.extractLsb' 5 3 == 0#3

/-- A good state: it runs, and every element is within what the spec says it holds. -/
def good (s : State) : Bool :=
  runnable s && resendsInRange s && scanInRange s && sendsLastByte s && presentsFrameBit s
    && resultLegal s

/-- The inputs that the machine refuses: the reserved event words (30_encoding.md R131). -/
def refusedInput (i : Input) : Bool :=
  i == .event 4#3 || i == .event 6#3 || i == .event 7#3

/-- The machine is between frames: no bit of an inbound frame is gathered (10_state.md R54 (d)). -/
def betweenFrames (s : State) : Bool :=
  s.blk.bsMode == .idle && s.blk.rxIdx == 0#4 && s.blk.rxShift == 0#11

/-- The request w is the one the port offers to the block: nothing is held, or w is the held request itself (42_sequencer.md R362; log entries 8 and 9). -/
def portOffers (w : ReqWord) (s : State) : Bool :=
  match s.held with
  | [] => true
  | v :: _ => v == w

end Sys2Proof.Machine
end

