-- ==== Sys2Proof/Certificates/Slice0/Obligations.lean ====
section
/-! DEFINITION. The statements for the provers, from the numbered rules of spec/. Each docstring names the rules it formalises. A next state written as the old state with fields replaced IS the frame: every other element, the configuration, the inputs, the held requests and the outputs are as before. -/

open Sys2Proof Sys2Proof.Machine

/-! ### Words the statements use -/

/-- The block after BEGIN and its TX_BYTE, written out element by element from 42_sequencer.md R200 and 41_bit_sampler.md R180. -/
def Sys2Proof.Expect.begun (kind : TKind) (cmd : Byte) (dataV : Bool) (data : Byte) (k : Block) :
    Block :=
  { k with
    tCmd := cmd, tKind := kind, tData := data, tDataV := dataV, awaitSub := .awAck,
    tResends := 0#2, tIdlo := 0#8, tNack := false,
    txFrame := encodeFrame cmd, tLast := cmd, txIdx := 0#4, rxShift := 0#11, rxIdx := 0#4,
    clkDrv := true, datDrv := false, bsMode := .inhibit, seqPhase := .inhibit }

/-- The block about to send b again or next, from 41_bit_sampler.md R180. -/
def Sys2Proof.Expect.sending (b : Byte) (k : Block) : Block :=
  { k with
    txFrame := encodeFrame b, tLast := b, txIdx := 0#4, rxShift := 0#11, rxIdx := 0#4,
    clkDrv := true, datDrv := false, bsMode := .inhibit, seqPhase := .inhibit }

/-- The state after a transaction ended with the result word w, written out from 42_sequencer.md R215. -/
def Sys2Proof.Expect.ended (w : RespWord) (s : State) : State :=
  { s with
    blk := { s.blk with
      result := w, seqPhase := .idle, awaitSub := .awAck, tKind := .generic, tData := 0#8,
      tDataV := false, tResends := 0#2, tIdlo := 0#8, tNack := false }
    out := s.out ++ [.done w] }

/-- A one-bit element as a number. -/
def Sys2Proof.Expect.bit (v : Bool) : Nat := if v then 1 else 0

/-- The result word as a number, from 30_encoding.md R115: CODE, NACK in bit 4, BYTE in 15:8, ID in 31:16. -/
def Sys2Proof.Expect.result (code : Nat) (nack : Bool) (byte id : Nat) : RespWord :=
  BitVec.ofNat 32 (code + 16 * Expect.bit nack + 256 * byte + 65536 * id)

/-- The number of 1 bits of a byte (00_scope.md R12). -/
def Sys2Proof.Expect.popcount (b : Byte) : Nat :=
  ((List.range 8).filter fun i => b.getLsbD i).length

/-- A response byte can be interpreted: the machine waits in AWAIT for what `sub` says, and it is between frames. -/
def Sys2Proof.Expect.waits (sub : AwaitSub) (s : State) : Bool :=
  s.blk.seqPhase == .await && s.blk.awaitSub == sub && betweenFrames s

/-- The next input is the device byte b, the machine runs, is between frames and idle: b is a scan byte (42_sequencer.md R232). -/
def Sys2Proof.Expect.scans (b : Byte) (rest : List Input) (s : State) : Bool :=
  runnable s && s.inputs == .deviceByte b :: rest && s.blk.seqPhase == .idle
    && s.blk.bsMode == .idle

/-- The accumulated value with the byte b, as a number: SB_ACC's bytes, then b (43_scan_decoder.md R264, 20_memory.md R84). -/
def Sys2Proof.Expect.acc (b : Byte) (s : State) : Code :=
  BitVec.ofNat 24 (s.blk.sbAcc.toNat * 256 + b.toNat)

/-- An identity is none of the three lock keys (43_scan_decoder.md R270). -/
def Sys2Proof.Expect.notLock (c : Config) (k : KeyId) : Bool :=
  k != c.keyCaps && k != c.keyNum && k != c.keyScroll

/-- SEQ_PHASE's values as 10_state.md R38 numbers them. -/
def Sys2Proof.Expect.phaseNumber : SeqPhase → Nat
  | .idle => 0
  | .inhibit => 1
  | .sending => 2
  | .await => 3

/-- AWAIT_SUB's values as 10_state.md R39 numbers them. -/
def Sys2Proof.Expect.awaitNumber : AwaitSub → Nat
  | .awAck => 0
  | .awReady => 1
  | .awId0 => 2
  | .awId1 => 3

/-- BS_MODE's values as 10_state.md R33 numbers them. -/
def Sys2Proof.Expect.modeNumber : BsMode → Nat
  | .idle => 0
  | .receiving => 1
  | .inhibit => 2
  | .transmitting => 3
  | .ack => 4

/-- T_KIND's values as 10_state.md R40 numbers them. -/
def Sys2Proof.Expect.kindNumber : TKind → Nat
  | .generic => 0
  | .twoPhase => 1
  | .reset => 2
  | .readId => 3

/-- The result codes as 30_encoding.md R116 numbers them. -/
def Sys2Proof.Expect.codeNumber : ResultCode → Nat
  | .none => 0
  | .ack => 1
  | .ready => 2
  | .deviceId => 3
  | .protocolError => 4
  | .resendLimit => 5
  | .timeout => 6
  | .rejected => 7

/-- KB_TYPEMATIC's rate after the substitution of 42_sequencer.md R207, as a number. -/
def Sys2Proof.Expect.rate (r : Byte) : Nat := if r.toNat ≤ 0x1F then r.toNat else 0x0B

/-- KB_TYPEMATIC's delay after the substitution of 42_sequencer.md R207, as a number. -/
def Sys2Proof.Expect.delay (d : Byte) : Nat := if d.toNat ≤ 3 then d.toNat else 1

/-- The block after the acceptance of each transaction request (42_sequencer.md R202 to R209); any other row leaves it. -/
def Sys2Proof.Expect.accepted (c : Config) (k : Block) : Instr → Block
  | .kbReset => Expect.begun .reset c.cmdReset false 0#8 k
  | .kbEnable => Expect.begun .generic c.cmdEnable false 0#8 k
  | .kbDisable => Expect.begun .generic c.cmdDisable false 0#8 k
  | .kbDefaults => Expect.begun .generic c.cmdSetDefault false 0#8 k
  | .kbSetleds x y z =>
    Expect.begun .twoPhase c.cmdSetLeds true
      (BitVec.ofNat 8 (4 * Expect.bit x + 2 * Expect.bit y + Expect.bit z))
      { k with ledCaps := x, ledNum := y, ledScroll := z }
  | .kbTypematic r d =>
    Expect.begun .twoPhase c.cmdSetTypematic true
      (BitVec.ofNat 8 (32 * Expect.delay d + Expect.rate r))
      { k with
        tmRate := BitVec.ofNat 5 (Expect.rate r), tmDelay := BitVec.ofNat 2 (Expect.delay d) }
  | .kbReadid => Expect.begun .readId c.cmdReadId false 0#8 k
  | .kbResend => Expect.begun .generic c.cmdResend false 0#8 k
  | .qLocks | .qResult | .qStatus | .qDev | .qDiag | .qXlat _ | .fall _ | .inhdone | .timeout
  | .rst | .cmdReset | .cmdEnable | .cmdDisable | .cmdSetDefault | .cmdSetLeds
  | .cmdSetTypematic | .cmdReadId | .cmdResend | .ledData _ _ _ | .typematicData _ _
  | .respAck | .respResend | .respReady => k

/-- The input is the start of what the device puts on the wire: a falling edge (30_encoding.md R131) or a whole device byte, row of the table or not (R141). -/
def Sys2Proof.Expect.inbound (i : Input) : Prop :=
  i = .event 1#3 ∨ i = .event 5#3 ∨ ∃ b, i = .deviceByte b

/-! ### Reset -/

/-- 70_reset_and_hazards.md R351: after Rst every element holds the table's value, and that state satisfies every invariant of 10_state.md R54; the machine's reset state holds the same. -/
def Obligations.RstSetsEveryElement : Prop :=
  (∀ s : State, exec .rst s = .next { s with
    blk := {
      clkDrv := false, datDrv := false, bsMode := .idle, rxShift := 0#11, rxIdx := 0#4,
      txFrame := 0#11, txIdx := 0#4, seqPhase := .idle, awaitSub := .awAck, tKind := .generic,
      tCmd := 0#8, tData := 0#8, tDataV := false, tLast := 0#8, tResends := 0#2, tIdlo := 0#8,
      tNack := false, result := 0#32, ledCaps := false, ledNum := false, ledScroll := false,
      tmRate := 0x0B#5, tmDelay := 1#2, devId := 0#16, relCaps := true, relNum := true,
      relScroll := true, sbAcc := 0#24, sbLen := 0#2, perrCnt := 0#8, serrCnt := 0#8,
      desyncCnt := 0#8 } }) ∧
  exec .rst State.reset = .next State.reset ∧
  State.reset.blk.inv = true

/-! ### Encodings -/

/-- 30_encoding.md R113 with R110: a word decodes to an instruction exactly when some row's match and mask accept it, and then to that row's instruction; so no two rows accept one word. -/
def Obligations.RequestDecodingFollowsTheMap : Prop :=
  ∀ w : ReqWord,
    (∀ i, decodeReq w = .ok i →
      ∃ r ∈ requestRows, w &&& r.mask = r.pattern ∧ r.mnemonic = i.mnemonic) ∧
    (∀ r ∈ requestRows, w &&& r.mask = r.pattern →
      ∃ i, decodeReq w = .ok i ∧ i.mnemonic = r.mnemonic)

/-- Every row of the opcode table, at every operand value, decodes from its own encoding (30_encoding.md R104 to R111, R131). The spec lets two command bytes be equal, and then the byte alone cannot name the row: hence the hypothesis on the configuration. -/
def Obligations.DecodeOfEncodeIsTheInstruction : Prop :=
  ∀ (c : Config) (i : Instr), c.respDistinct = true → c.commandsDistinct = true →
    decode c (encode c i) = .ok i

/-- The other direction: no two inputs are read as one instruction, so no bit of an input is dropped. -/
def Obligations.EncodeOfDecodeIsTheInput : Prop :=
  ∀ (c : Config) (i : Input) (instr : Instr), decode c i = .ok instr → encode c instr = i

/-- 30_encoding.md R131: the eight event words. -/
def Obligations.EventWordsDecode : Prop :=
  ∀ c : Config,
    decode c (.event 1#3) = .ok (.fall false) ∧ decode c (.event 5#3) = .ok (.fall true) ∧
    decode c (.event 2#3) = .ok .inhdone ∧ decode c (.event 3#3) = .ok .timeout ∧
    decode c (.event 0#3) = .error .noEvent ∧ decode c (.event 4#3) = .error .reservedEvent ∧
    decode c (.event 6#3) = .error .reservedEvent ∧ decode c (.event 7#3) = .error .reservedEvent ∧
    decode c (.reset 1#1) = .ok .rst

/-- Words written out from the tables of R104, R105, R106, R107 and R110, one of each family, decode to the instruction they stand for. -/
def Obligations.SpecWordsDecode : Prop :=
  decode Config.initial (.req 0x000001#24) = .ok .kbReset ∧
  decode Config.initial (.req 0x000505#24) = .ok (.kbSetleds true false true) ∧
  decode Config.initial (.req 0x040206#24) = .ok (.kbTypematic 0x02#8 0x04#8) ∧
  decode Config.initial (.req 0x00000B#24) = .ok .qStatus ∧
  decode Config.initial (.req 0x00010E#24) = .ok (.qXlat 0x01#8) ∧
  decode Config.initial (.hostCommand 0xED#8) = .ok .cmdSetLeds ∧
  decode Config.initial (.hostLedData 0x04#8) = .ok (.ledData true false false) ∧
  decode Config.initial (.hostTypematicData 0x2B#8) = .ok (.typematicData 0x0B#5 0x1#2) ∧
  decode Config.initial (.deviceByte 0xFA#8) = .ok .respAck

/-- The eighteen lines of 30_encoding.md R140 that stand for a row, the four with operands and the fourteen without, are that row's encoding, at every operand. -/
def Obligations.ProgramLinesEncodeTheirRows : Prop :=
  ∀ (c : Config) (x y z : Bool) (a b : Byte),
    (Line.inputs (.kbSetleds x y z) = [encode c (.kbSetleds x y z)] ∧
      Line.inputs (.kbTypematic a b) = [encode c (.kbTypematic a b)] ∧
      Line.inputs (.qXlat a) = [encode c (.qXlat a)] ∧
      Line.inputs (.fall x) = [encode c (.fall x)]) ∧
    (Line.inputs .kbReset = [encode c .kbReset] ∧ Line.inputs .kbEnable = [encode c .kbEnable] ∧
      Line.inputs .kbDisable = [encode c .kbDisable] ∧
      Line.inputs .kbDefaults = [encode c .kbDefaults] ∧
      Line.inputs .kbReadid = [encode c .kbReadid] ∧
      Line.inputs .kbResend = [encode c .kbResend]) ∧
    (Line.inputs .qLocks = [encode c .qLocks] ∧ Line.inputs .qResult = [encode c .qResult] ∧
      Line.inputs .qStatus = [encode c .qStatus] ∧ Line.inputs .qDev = [encode c .qDev] ∧
      Line.inputs .qDiag = [encode c .qDiag]) ∧
    (Line.inputs .inhdone = [encode c .inhdone] ∧ Line.inputs .timeout = [encode c .timeout] ∧
      Line.inputs .rst = [encode c .rst])

/-! ### Framer -/

/-- 40_framer.md R150 and 30_encoding.md R101: where each bit of a byte's frame stands, and R150's example values. -/
def Obligations.FrameHoldsStartDataParityStop : Prop :=
  (∀ b : Byte, (encodeFrame b).getLsbD 0 = false ∧
    (∀ i, i < 8 → (encodeFrame b).getLsbD (i + 1) = b.getLsbD i) ∧
    (encodeFrame b).getLsbD 9 = parity b ∧ (encodeFrame b).getLsbD 10 = true) ∧
  encodeFrame 0x00#8 = 0x600#11 ∧ encodeFrame 0xFF#8 = 0x7FE#11 ∧ encodeFrame 0xED#8 = 0x7DA#11

/-- 40_framer.md R151: parity(b) is 1 ^ (popcount(b) mod 2), so popcount(b) + parity(b) is odd. -/
def Obligations.ParityMakesTheCountOdd : Prop :=
  ∀ b : Byte, Expect.bit (parity b) = (1 + Expect.popcount b) % 2 ∧
    (Expect.popcount b + Expect.bit (parity b)) % 2 = 1

/-- 40_framer.md R154: the round trip, the parity flip, every single flip, and that a double flip among bits 1 to 9 is not detected. -/
def Obligations.FramerDetectsSingleErrors : Prop :=
  ∀ b : Byte,
    decodeFrame (encodeFrame b) = .byte b ∧
    decodeFrame (encodeFrame b ^^^ (1#11 <<< 9)) = .bad true false ∧
    (∀ i, 1 ≤ i → i ≤ 9 → decodeFrame (encodeFrame b ^^^ (1#11 <<< i)) = .bad true false) ∧
    decodeFrame (encodeFrame b ^^^ (1#11 <<< 10)) = .bad false true ∧
    decodeFrame (encodeFrame b ^^^ (1#11 <<< 0)) = .byte b ∧
    (∀ i j, 1 ≤ i → i ≤ 9 → 1 ≤ j → j ≤ 9 → i ≠ j →
      ∃ b', decodeFrame (encodeFrame b ^^^ (1#11 <<< i) ^^^ (1#11 <<< j)) = .byte b')

/-! ### Bit sampler -/

/-- 41_bit_sampler.md R171: an edge that is not the last of the frame stores its level at RX_IDX, counts it, and changes nothing else. -/
def Obligations.EdgeStoresTheReceivedBit : Prop :=
  ∀ (d : Bool) (s : State), (s.blk.bsMode = .idle ∨ s.blk.bsMode = .receiving) →
    s.blk.rxIdx.toNat < 10 →
    ∃ v : BitVec 11,
      (∀ j, j < 11 → v.getLsbD j = if j = s.blk.rxIdx.toNat then d else s.blk.rxShift.getLsbD j) ∧
      exec (.fall d) s = .next { s with
        blk := { s.blk with rxShift := v, rxIdx := s.blk.rxIdx + 1#4, bsMode := .receiving } }

/-- 41_bit_sampler.md R172 with 60_exceptions.md R311 and R312: the eleventh edge completes the frame F. A good frame's byte is dispatched; a bad frame is counted, in both counters if both checks fail, and nothing else happens. -/
def Obligations.LastEdgeDeliversOrCounts : Prop :=
  ∀ (d : Bool) (s : State) (f : Frame), s.blk.bsMode = .receiving → s.blk.rxIdx = 10#4 →
    f = s.blk.rxShift ||| (if d then 0x400#11 else 0#11) →
    (∀ b, decodeFrame f = .byte b →
      exec (.fall d) s = dispatch b { s with
        blk := { s.blk with rxShift := 0#11, rxIdx := 0#4, bsMode := .idle } }) ∧
    (∀ perr serr, decodeFrame f = .bad perr serr →
      exec (.fall d) s = .next { s with
        blk := { s.blk with
          rxShift := 0#11, rxIdx := 0#4, bsMode := .idle,
          perrCnt := if perr then s.blk.perrCnt + 1#8 else s.blk.perrCnt,
          serrCnt := if serr then s.blk.serrCnt + 1#8 else s.blk.serrCnt } })

/-- 41_bit_sampler.md R174 and R182: an edge during the inhibit and an InhibitDone outside it change nothing. -/
def Obligations.StrayEdgesAndTimersChangeNothing : Prop :=
  ∀ (d : Bool) (s : State),
    (s.blk.bsMode = .inhibit → exec (.fall d) s = .next s) ∧
    (s.blk.bsMode ≠ .inhibit → exec .inhdone s = .next s)

/-- 41_bit_sampler.md R181: the end of the inhibit pulls data low and releases the clock, in one step. -/
def Obligations.InhibitDonePutsOutTheStartBit : Prop :=
  ∀ s : State, s.blk.bsMode = .inhibit →
    exec .inhdone s = .next { s with
      blk := { s.blk with
        datDrv := true, clkDrv := false, txIdx := 1#4, bsMode := .transmitting,
        seqPhase := .sending } }

/-- 41_bit_sampler.md R183, R184 and R185: the edges of a transmit, by TX_IDX. -/
def Obligations.TransmitEdgesPresentBitsThenSampleAck : Prop :=
  ∀ (d : Bool) (s : State),
    (s.blk.bsMode = .transmitting → 1 ≤ s.blk.txIdx.toNat → s.blk.txIdx.toNat ≤ 9 →
      exec (.fall d) s = .next { s with
        blk := { s.blk with
          datDrv := !s.blk.txFrame.getLsbD s.blk.txIdx.toNat, txIdx := s.blk.txIdx + 1#4 } }) ∧
    (s.blk.bsMode = .transmitting → s.blk.txIdx = 10#4 →
      exec (.fall d) s = .next { s with
        blk := { s.blk with datDrv := false, txIdx := 11#4, bsMode := .ack } }) ∧
    (s.blk.bsMode = .ack → s.blk.txIdx = 11#4 →
      exec (.fall d) s = .next { s with
        blk := { s.blk with
          tNack := if d = s.cfg.ackLevel then s.blk.tNack else true,
          txIdx := 0#4, bsMode := .idle, seqPhase := .await } })

/-- 41_bit_sampler.md R186 with R183, R184 and R188: after the InhibitDone and k further edges, k at most 10 and whatever their levels, the clock is released and data is pulled low exactly if frame bit k is 0. -/
def Obligations.HostFrameBitsAppearInOrder : Prop :=
  ∀ (b : Byte) (s : State) (ds : List Bool), s.blk.bsMode = .inhibit →
    s.blk.txFrame = encodeFrame b → ds.length ≤ 10 →
    ∃ t, edges ds (inhibitDone s) = .next t ∧
      t.blk.datDrv = !(encodeFrame b).getLsbD ds.length ∧ t.blk.clkDrv = false ∧
      t.out = s.out ∧ t.blk.txFrame = s.blk.txFrame

/-- The ten host-byte rows CMD_RESET, CMD_ENABLE, CMD_DISABLE, CMD_SET_DEFAULT, CMD_SET_LEDS, CMD_SET_TYPEMATIC, CMD_READ_ID, CMD_RESEND, LED_DATA and TYPEMATIC_DATA (30_encoding.md R104 to R106, R141 TXCYCLE; 41_bit_sampler.md R181 to R185, R188). While the block is about to send the row's byte, the row is the byte's InhibitDone and 11 edges: the machine then awaits the response. Otherwise the byte is not on the wire and nothing changes, which is the model's choice (log entry 11). -/
def Obligations.HostBytesCrossTheWire : Prop :=
  ∀ (i : Instr) (b : Byte) (s : State),
    (encode s.cfg i = .hostCommand b ∨ encode s.cfg i = .hostLedData b ∨
      encode s.cfg i = .hostTypematicData b) →
    (s.blk.bsMode = .inhibit → s.blk.txFrame = encodeFrame b →
      exec i s = .next { s with
        blk := { s.blk with
          clkDrv := false, datDrv := false, txIdx := 0#4, bsMode := .idle, seqPhase := .await,
          tNack := if s.cfg.ackLevel = false then s.blk.tNack else true } }) ∧
    (¬(s.blk.bsMode = .inhibit ∧ s.blk.txFrame = encodeFrame b) → exec i s = .next s)

/-- 30_encoding.md R141 with 41_bit_sampler.md R172 and 42_sequencer.md R232: between frames, the 11 edges of an 11-bit pattern deliver the pattern as the frame: its byte is dispatched if it is good, and only the counters change if it is bad (R229: also while a transaction awaits a response). -/
def Obligations.ElevenEdgesDeliverTheFrame : Prop :=
  ∀ (f : Frame) (s : State), betweenFrames s = true →
    (∀ b, decodeFrame f = .byte b → deviceFrame f s = dispatch b s) ∧
    (∀ perr serr, decodeFrame f = .bad perr serr →
      deviceFrame f s = .next { s with
        blk := { s.blk with
          perrCnt := if perr then s.blk.perrCnt + 1#8 else s.blk.perrCnt,
          serrCnt := if serr then s.blk.serrCnt + 1#8 else s.blk.serrCnt } })

/-- A device byte taken in one step is exactly its eleven edges taken in eleven steps (30_encoding.md R141, R131), from every state in which the machine runs, between frames or not. That a device byte, row or not, is taken in one step is the model's own form (log entries 10 and 19). -/
def Obligations.DeviceByteIsItsElevenSteps : Prop :=
  ∀ (b : Byte) (rest : List Input) (s : State), runnable s = true →
    s.inputs = .deviceByte b :: rest →
    step s = Host.Core.run core 11 (s.withInputs ((Line.devByte b).inputs ++ rest))

/-- A host byte taken in one step is exactly its InhibitDone and eleven edges taken in twelve steps (30_encoding.md R141, 41_bit_sampler.md R188), in each of the three places a host byte can stand and so for each of the ten host-byte rows. That a host byte, row or not, is taken in one step with the acknowledgment level 0 is the model's own form (log entries 11 and 19); a byte that the block is not about to send is HostBytesOffTheWireChangeNothing. -/
def Obligations.HostByteIsItsTwelveSteps : Prop :=
  ∀ (i : Input) (b : Byte) (rest : List Input) (s : State), runnable s = true →
    (i = .hostCommand b ∨ i = .hostLedData b ∨ i = .hostTypematicData b) →
    s.inputs = i :: rest → s.blk.bsMode = .inhibit → s.blk.txFrame = encodeFrame b →
    step s = Host.Core.run core 12 (s.withInputs ((Line.txCycle false).inputs ++ rest))

/-- 20_memory.md R82: while the block pulls data low, no edge's effect depends on the level. -/
def Obligations.DrivenDataLevelIsNotRead : Prop :=
  ∀ (d : Bool) (s : State), s.blk.inv = true → s.blk.datDrv = true →
    exec (.fall d) s = exec (.fall false) s

/-- 10_state.md R32 with 20_memory.md R82 and 41_bit_sampler.md R186: outside INHIBIT and TRANSMITTING both lines are at the device's level; in INHIBIT the clock is low; in TRANSMITTING data is low exactly if the device pulls it or the presented frame bit, TX_FRAME[TX_IDX − 1], is 0. `dev` is the level the device's end alone would leave. -/
def Obligations.LineLevelsFollowTheMode : Prop :=
  ∀ (s : State) (dev : Bool), good s = true →
    (s.blk.hostDrives = false →
      lineLevel s.blk.clkDrv dev = dev ∧ lineLevel s.blk.datDrv dev = dev) ∧
    (s.blk.bsMode = .inhibit →
      lineLevel s.blk.clkDrv dev = false ∧ lineLevel s.blk.datDrv dev = dev) ∧
    (s.blk.bsMode = .transmitting →
      lineLevel s.blk.clkDrv dev = dev ∧
        lineLevel s.blk.datDrv dev = (dev && s.blk.txFrame.getLsbD (s.blk.txIdx.toNat - 1)))

/-! ### Sequencer: requests -/

/-- 42_sequencer.md R202 to R205, R208 and R209 under R200: KB_RESET, KB_ENABLE, KB_DISABLE, KB_DEFAULTS, KB_READID and KB_RESEND, accepted while idle, bind their interpreter and begin to send their command byte; Device State is unchanged. That a request offered again leaves the held list is the model's record of the port (log entries 7 to 9). -/
def Obligations.PlainCommandsAreAccepted : Prop :=
  ∀ (s : State), s.blk.seqPhase = .idle →
    (portOffers 0x000001#24 s = true → exec .kbReset s = .next { s with
      held := s.held.tail, blk := Expect.begun .reset s.cfg.cmdReset false 0#8 s.blk }) ∧
    (portOffers 0x000002#24 s = true → exec .kbEnable s = .next { s with
      held := s.held.tail, blk := Expect.begun .generic s.cfg.cmdEnable false 0#8 s.blk }) ∧
    (portOffers 0x000003#24 s = true → exec .kbDisable s = .next { s with
      held := s.held.tail, blk := Expect.begun .generic s.cfg.cmdDisable false 0#8 s.blk }) ∧
    (portOffers 0x000004#24 s = true → exec .kbDefaults s = .next { s with
      held := s.held.tail, blk := Expect.begun .generic s.cfg.cmdSetDefault false 0#8 s.blk }) ∧
    (portOffers 0x000007#24 s = true → exec .kbReadid s = .next { s with
      held := s.held.tail, blk := Expect.begun .readId s.cfg.cmdReadId false 0#8 s.blk }) ∧
    (portOffers 0x000008#24 s = true → exec .kbResend s = .next { s with
      held := s.held.tail, blk := Expect.begun .generic s.cfg.cmdResend false 0#8 s.blk })

/-- 42_sequencer.md R206 with 30_encoding.md R105: KB_SETLEDS, accepted while idle, writes the three LED bits and begins the two-phase command with scroll in bit 0, num in bit 1 and caps in bit 2 of the data byte. That a request offered again leaves the held list is the model's record of the port (log entries 7 to 9); an idle block with a different request held in front is RequestsWaitBehindTheHeldOne. -/
def Obligations.SetledsWritesLedsAtAcceptance : Prop :=
  ∀ (x y z : Bool) (s : State), s.blk.seqPhase = .idle →
    portOffers (BitVec.ofNat 24
      (5 + 256 * Expect.bit x + 512 * Expect.bit y + 1024 * Expect.bit z)) s = true →
    exec (.kbSetleds x y z) s = .next { s with
      held := s.held.tail
      blk := Expect.begun .twoPhase s.cfg.cmdSetLeds true
        (BitVec.ofNat 8 (4 * Expect.bit x + 2 * Expect.bit y + Expect.bit z))
        { s.blk with ledCaps := x, ledNum := y, ledScroll := z } }

/-- 42_sequencer.md R207 with 30_encoding.md R106: KB_TYPEMATIC, accepted while idle, replaces each out-of-range operand by its default, on its own, writes both fields and begins the two-phase command. That a request offered again leaves the held list is the model's record of the port (log entries 7 to 9); an idle block with a different request held in front is RequestsWaitBehindTheHeldOne. -/
def Obligations.TypematicSubstitutesAndWrites : Prop :=
  ∀ (r d : Byte) (s : State) (rate delay : Nat), s.blk.seqPhase = .idle →
    portOffers (BitVec.ofNat 24 (6 + 256 * r.toNat + 65536 * d.toNat)) s = true →
    rate = (if r.toNat ≤ 0x1F then r.toNat else 0x0B) →
    delay = (if d.toNat ≤ 3 then d.toNat else 1) →
    exec (.kbTypematic r d) s = .next { s with
      held := s.held.tail
      blk := Expect.begun .twoPhase s.cfg.cmdSetTypematic true (BitVec.ofNat 8 (32 * delay + rate))
        { s.blk with tmRate := BitVec.ofNat 5 rate, tmDelay := BitVec.ofNat 2 delay } }

/-- 42_sequencer.md R201: a transaction request that arrives while the sequencer is busy, any of the eight, is not consumed: the block and the outputs are unchanged and the request stays pending at the host, and so it does when it is offered again. Where it stands in the list of waiting requests is the model's record (log entries 7 to 9 and 27). -/
def Obligations.BusyTransactionsAreHeld : Prop :=
  ∀ (i : Instr) (w : ReqWord) (s : State), i.isTransaction = true → encode s.cfg i = .req w →
    s.blk.seqPhase ≠ .idle →
    (s.held = [] → exec i s = .next { s with held := [w] }) ∧
    (∀ rest, s.held = w :: rest → exec i s = .next s) ∧
    (∀ v rest, s.held = v :: rest → v ≠ w → exec i s = .next { s with held := s.held ++ [w] })

/-! ### Sequencer: responses and the end of a transaction -/

/-- 42_sequencer.md R215 with the layout of 30_encoding.md R115: FINISH records and emits one result word with the code, the NACK flag, the byte and the id in their fields, and returns every element of the transaction to rest. -/
def Obligations.FinishReportsOneResultWord : Prop :=
  ∀ (code : ResultCode) (byte : Byte) (id : BitVec 16) (s : State),
    finish code byte id s
      = Expect.ended (Expect.result (Expect.codeNumber code) s.blk.tNack byte.toNat id.toNat) s

/-- RESP_ACK (42_sequencer.md R220): the byte RESP_ACK, arriving between frames while an ack is awaited, finishes a generic command and the second phase of a two-phase one with ACK, starts the data byte of a two-phase command, and moves a reset and a read-ID to their next wait. That the row is the byte's 11 edges in one step is the model's own form (log entry 10). -/
def Obligations.AckAdvancesTheTransaction : Prop :=
  ∀ s : State, Expect.waits .awAck s = true →
    (s.blk.tKind = .generic →
      exec .respAck s = .next (Expect.ended (Expect.result 1 s.blk.tNack 0 0) s)) ∧
    (s.blk.tKind = .twoPhase → s.blk.tDataV = false →
      exec .respAck s = .next (Expect.ended (Expect.result 1 s.blk.tNack 0 0) s)) ∧
    (s.blk.tKind = .twoPhase → s.blk.tDataV = true →
      exec .respAck s = .next { s with
        blk := Expect.sending s.blk.tData { s.blk with tDataV := false, tResends := 0#2 } }) ∧
    (s.blk.tKind = .reset →
      exec .respAck s = .next { s with blk := { s.blk with awaitSub := .awReady } }) ∧
    (s.blk.tKind = .readId →
      exec .respAck s = .next { s with blk := { s.blk with awaitSub := .awId0 } })

/-- RESP_RESEND (42_sequencer.md R221): below the limit the byte most recently sent is sent again, whatever the kind; at the limit the transaction ends with RESEND_LIMIT and the byte. That the row is the byte's 11 edges in one step is the model's own form (log entry 10). -/
def Obligations.ResendRetransmitsThenGivesUp : Prop :=
  ∀ s : State, Expect.waits .awAck s = true → s.cfg.respDistinct = true →
    (s.blk.tResends.toNat < s.cfg.maxResend →
      exec .respResend s = .next { s with
        blk := Expect.sending s.blk.tLast { s.blk with tResends := s.blk.tResends + 1#2 } }) ∧
    (s.cfg.maxResend ≤ s.blk.tResends.toNat →
      exec .respResend s = .next
        (Expect.ended (Expect.result 5 s.blk.tNack s.cfg.respResend.toNat 0) s))

/-- RESP_READY (42_sequencer.md R222, R224): it ends a reset with READY, before or after the reset's ack; as the answer to any other command it is a protocol error (R223). That the row is the byte's 11 edges in one step is the model's own form (log entry 10). -/
def Obligations.ReadyEndsAReset : Prop :=
  ∀ s : State, s.cfg.respDistinct = true →
    (Expect.waits .awReady s = true →
      exec .respReady s = .next (Expect.ended (Expect.result 2 s.blk.tNack 0 0) s)) ∧
    (Expect.waits .awAck s = true → s.blk.tKind = .reset →
      exec .respReady s = .next (Expect.ended (Expect.result 2 s.blk.tNack 0 0) s)) ∧
    (Expect.waits .awAck s = true → s.blk.tKind ≠ .reset →
      exec .respReady s = .next
        (Expect.ended (Expect.result 4 s.blk.tNack s.cfg.respReady.toNat 0) s))

/-- 42_sequencer.md R223 and R224: every other byte, taken as the response, ends the transaction with PROTOCOL_ERROR and the byte; it never reaches the scan decoder (60_exceptions.md R313). That the byte, row or not, is taken in one step is the model's own form (log entries 10 and 19). -/
def Obligations.UnexpectedResponsesAreProtocolErrors : Prop :=
  ∀ (b : Byte) (rest : List Input) (s : State), runnable s = true →
    s.inputs = .deviceByte b :: rest →
    ((Expect.waits .awAck s = true ∧ b ≠ s.cfg.respAck ∧ b ≠ s.cfg.respResend ∧
        ¬(b = s.cfg.respReady ∧ s.blk.tKind = .reset)) ∨
      (Expect.waits .awReady s = true ∧ b ≠ s.cfg.respReady)) →
    step s = .next (Expect.ended (Expect.result 4 s.blk.tNack b.toNat 0) { s with inputs := rest })

/-- 42_sequencer.md R225 and R226: the two bytes after the ack of a read-ID are captured whatever they are, low byte first; the second one writes DEV_ID and ends the transaction with DEVICE_ID. That the byte, row or not, is taken in one step is the model's own form (log entries 10 and 19). -/
def Obligations.IdBytesAreCapturedLowFirst : Prop :=
  ∀ (b : Byte) (rest : List Input) (s : State), runnable s = true →
    s.inputs = .deviceByte b :: rest →
    (Expect.waits .awId0 s = true →
      step s = .next { s with
        inputs := rest, blk := { s.blk with tIdlo := b, awaitSub := .awId1 } }) ∧
    (Expect.waits .awId1 s = true →
      step s = .next (Expect.ended
        (Expect.result 3 s.blk.tNack 0 (256 * b.toNat + s.blk.tIdlo.toNat))
        { s with
          inputs := rest
          blk := { s.blk with
            devId := BitVec.ofNat 16 (256 * b.toNat + s.blk.tIdlo.toNat) } }))

/-- 42_sequencer.md R228 with 41_bit_sampler.md R187: TIMEOUT ends a busy transaction with TIMEOUT, releasing both lines in a host-driven phase and keeping a partly received frame otherwise; while idle it changes nothing. -/
def Obligations.TimeoutEndsTheTransaction : Prop :=
  ∀ s : State,
    (s.blk.seqPhase = .idle → exec .timeout s = .next s) ∧
    (s.blk.seqPhase ≠ .idle → (s.blk.bsMode = .idle ∨ s.blk.bsMode = .receiving) →
      exec .timeout s = .next (Expect.ended (Expect.result 6 s.blk.tNack 0 0) s)) ∧
    (s.blk.seqPhase ≠ .idle → s.blk.bsMode ≠ .idle → s.blk.bsMode ≠ .receiving →
      exec .timeout s = .next (Expect.ended (Expect.result 6 s.blk.tNack 0 0) { s with
        blk := { s.blk with
          clkDrv := false, datDrv := false, txIdx := 0#4, rxIdx := 0#4, rxShift := 0#11,
          bsMode := .idle } }))

/-- 42_sequencer.md R234, the paths of all eight transaction requests without a resend: from any idle state with nothing held, the request, its bytes on the wire with good acknowledgments, and the device's answers. The GENERIC commands KB_ENABLE, KB_DISABLE, KB_DEFAULTS and KB_RESEND and the TWO_PHASE commands KB_SETLEDS and KB_TYPEMATIC end with ACK, KB_RESET with READY, KB_READID with DEVICE_ID. That each wire byte is one row, taken in one step, is the model's own form (log entries 10 and 11). -/
def Obligations.TransactionPathsReachTheirResults : Prop :=
  ∀ (s : State) (x y z : Bool) (r d p q : Byte), s.blk.seqPhase = .idle → s.held = [] →
    s.cfg.ackLevel = false →
    (∀ request byte : Instr, (request, byte) ∈ [(Instr.kbEnable, Instr.cmdEnable),
        (.kbDisable, .cmdDisable), (.kbDefaults, .cmdSetDefault), (.kbResend, .cmdResend)] →
      ∃ t, andThen (exec request s) (fun u => andThen (exec byte u) (exec .respAck)) = .next t ∧
        t.out = s.out ++ [.done 0x00000001#32] ∧ t.blk.seqPhase = .idle) ∧
    (∃ t, andThen (exec (.kbSetleds x y z) s) (fun u => andThen (exec .cmdSetLeds u) (fun v =>
        andThen (exec .respAck v) (fun w => andThen (exec (.ledData x y z) w) (exec .respAck))))
          = .next t ∧
      t.out = s.out ++ [.done 0x00000001#32] ∧ t.blk.seqPhase = .idle ∧ t.blk.ledCaps = x ∧
      t.blk.ledNum = y ∧ t.blk.ledScroll = z) ∧
    (∃ t, andThen (exec (.kbTypematic r d) s) (fun u => andThen (exec .cmdSetTypematic u) (fun v =>
        andThen (exec .respAck v) (fun w => andThen (exec (.typematicData
          (BitVec.ofNat 5 (Expect.rate r)) (BitVec.ofNat 2 (Expect.delay d))) w)
          (exec .respAck)))) = .next t ∧
      t.out = s.out ++ [.done 0x00000001#32] ∧ t.blk.seqPhase = .idle ∧
      t.blk.tmRate.toNat = Expect.rate r ∧ t.blk.tmDelay.toNat = Expect.delay d) ∧
    (∃ t, andThen (exec .kbReset s) (fun u => andThen (exec .cmdReset u) (fun v =>
        andThen (exec .respAck v) (exec .respReady))) = .next t ∧
      t.out = s.out ++ [.done 0x00000002#32] ∧ t.blk.seqPhase = .idle) ∧
    (∃ t, andThen (exec .kbReadid s) (fun u => andThen (exec .cmdReadId u) (fun v =>
        andThen (exec .respAck v) (fun w => andThen (deviceByte p w) (deviceByte q)))) = .next t ∧
      t.out = s.out ++ [.done (Expect.result 3 false 0 (256 * q.toNat + p.toNat))] ∧
      t.blk.seqPhase = .idle ∧ t.blk.devId = BitVec.ofNat 16 (256 * q.toNat + p.toNat))

/-! ### Scan-code decoder -/

/-- 43_scan_decoder.md R264, R270 and R274: a byte that completes a code of the table, of a key that is no lock key, empties the buffer and emits the key event, press for a make code and release for a break code. That the byte, row or not, is taken in one step is the model's own form (log entries 10 and 19). -/
def Obligations.CompletedCodesEmitKeyEvents : Prop :=
  ∀ (b : Byte) (rest : List Input) (e : KeyEntry) (s : State), Expect.scans b rest s = true →
    e ∈ s.cfg.keyTable → Expect.notLock s.cfg e.id = true →
    (e.make = Expect.acc b s →
      step s = .next { s with
        inputs := rest, blk := { s.blk with sbAcc := 0#24, sbLen := 0#2 }
        out := s.out ++ [.key e.id true] }) ∧
    (e.brk = Expect.acc b s →
      step s = .next { s with
        inputs := rest, blk := { s.blk with sbAcc := 0#24, sbLen := 0#2 }
        out := s.out ++ [.key e.id false] })

/-- 43_scan_decoder.md R271, R272 and R273 with R275: a press of caps-lock, num-lock or scroll-lock negates that key's LED bit if its last observation was a release, a release sets its release flag, and neither emits anything or starts a transaction. That the byte, row or not, is taken in one step is the model's own form (log entries 10 and 19). -/
def Obligations.LockKeysToggleOnThePressEdge : Prop :=
  ∀ (b : Byte) (rest : List Input) (e : KeyEntry) (s : State), Expect.scans b rest s = true →
    e ∈ s.cfg.keyTable →
    (e.make = Expect.acc b s → e.id = s.cfg.keyCaps → step s = .next { s with
      inputs := rest
      blk := { s.blk with
        sbAcc := 0#24, sbLen := 0#2, relCaps := false,
        ledCaps := if s.blk.relCaps then !s.blk.ledCaps else s.blk.ledCaps } }) ∧
    (e.make = Expect.acc b s → e.id = s.cfg.keyNum → step s = .next { s with
      inputs := rest
      blk := { s.blk with
        sbAcc := 0#24, sbLen := 0#2, relNum := false,
        ledNum := if s.blk.relNum then !s.blk.ledNum else s.blk.ledNum } }) ∧
    (e.make = Expect.acc b s → e.id = s.cfg.keyScroll → step s = .next { s with
      inputs := rest
      blk := { s.blk with
        sbAcc := 0#24, sbLen := 0#2, relScroll := false,
        ledScroll := if s.blk.relScroll then !s.blk.ledScroll else s.blk.ledScroll } }) ∧
    (e.brk = Expect.acc b s → e.id = s.cfg.keyCaps → step s = .next { s with
      inputs := rest, blk := { s.blk with sbAcc := 0#24, sbLen := 0#2, relCaps := true } }) ∧
    (e.brk = Expect.acc b s → e.id = s.cfg.keyNum → step s = .next { s with
      inputs := rest, blk := { s.blk with sbAcc := 0#24, sbLen := 0#2, relNum := true } }) ∧
    (e.brk = Expect.acc b s → e.id = s.cfg.keyScroll → step s = .next { s with
      inputs := rest, blk := { s.blk with sbAcc := 0#24, sbLen := 0#2, relScroll := true } })

/-- 43_scan_decoder.md R265 and R266: a byte that completes no code is kept while fewer than SCAN_BUF_MAX bytes have been gathered; at the bound the buffer is cleared with the byte and the desync is counted, wrapping at 256. Neither emits anything. That the byte, row or not, is taken in one step is the model's own form (log entries 10 and 19). -/
def Obligations.UnmatchedBytesExtendOrDesync : Prop :=
  ∀ (b : Byte) (rest : List Input) (s : State), Expect.scans b rest s = true →
    (∀ e ∈ s.cfg.keyTable, e.make ≠ Expect.acc b s ∧ e.brk ≠ Expect.acc b s) →
    (s.blk.sbLen.toNat + 1 < s.cfg.scanBufMax →
      step s = .next { s with
        inputs := rest
        blk := { s.blk with sbAcc := Expect.acc b s, sbLen := s.blk.sbLen + 1#2 } }) ∧
    (s.cfg.scanBufMax ≤ s.blk.sbLen.toNat + 1 →
      step s = .next { s with
        inputs := rest
        blk := { s.blk with
          sbAcc := 0#24, sbLen := 0#2, desyncCnt := s.blk.desyncCnt + 1#8 } })

/-- Q_XLAT (44_queries.md R296, 43_scan_decoder.md R280, 30_encoding.md R121): null answers 0; a mapped identity answers VALID and its upper character exactly if it is alphabetic and LED_CAPS is 1, else its lower one. -/
def Obligations.XlatFoldsCaseForAlphabeticKeys : Prop :=
  ∀ (k : KeyId) (s : State),
    ((∀ e ∈ s.cfg.charMap, e.id ≠ k) →
      exec (.qXlat k) s = .next { s with out := s.out ++ [.resp 0#32] }) ∧
    (∀ pre post e, s.cfg.charMap = pre ++ e :: post → e.id = k → (∀ x ∈ pre, x.id ≠ k) →
      exec (.qXlat k) s = .next { s with
        out := s.out ++ [.resp (BitVec.ofNat 32 (256 +
          (if k ∈ s.cfg.isAlpha ∧ s.blk.ledCaps = true then e.upper else e.lower).toNat))] })

/-! ### Queries and rejected requests -/

/-- 44_queries.md R290: each of the six queries, in every state, busy or not, answers exactly one RESP word and changes nothing else. -/
def Obligations.QueriesOnlyAnswer : Prop :=
  ∀ (i : Instr) (s : State), i.isQuery = true →
    ∃ w, exec i s = .next { s with out := s.out ++ [.resp w] }

/-- Q_LOCKS, Q_RESULT, Q_DEV and Q_DIAG (44_queries.md R291, R292, R294, R295): the words of 30_encoding.md R118 to R120, as numbers. -/
def Obligations.ReadbackWordsHoldTheirFields : Prop :=
  ∀ s : State,
    exec .qLocks s = .next { s with
      out := s.out ++ [.resp (BitVec.ofNat 32 (Expect.bit s.blk.ledCaps
        + 2 * Expect.bit s.blk.ledNum + 4 * Expect.bit s.blk.ledScroll))] } ∧
    exec .qResult s = .next { s with out := s.out ++ [.resp s.blk.result] } ∧
    exec .qDev s = .next { s with
      out := s.out ++ [.resp (BitVec.ofNat 32 (s.blk.tmRate.toNat + 32 * s.blk.tmDelay.toNat
        + 256 * Expect.bit s.blk.relCaps + 512 * Expect.bit s.blk.relNum
        + 1024 * Expect.bit s.blk.relScroll + 65536 * s.blk.devId.toNat))] } ∧
    exec .qDiag s = .next { s with
      out := s.out ++ [.resp (BitVec.ofNat 32 (s.blk.perrCnt.toNat + 256 * s.blk.serrCnt.toNat
        + 65536 * s.blk.desyncCnt.toNat + 16777216 * s.blk.sbLen.toNat))] }

/-- Q_STATUS (44_queries.md R293): the word of 30_encoding.md R117, field by field, the enumerations by the numbers of 10_state.md R33 and R38 to R40; bit 23 is 0. -/
def Obligations.StatusWordHoldsItsFields : Prop :=
  ∀ s : State, ∃ w : RespWord,
    exec .qStatus s = .next { s with out := s.out ++ [.resp w] } ∧
    (w.extractLsb' 0 2).toNat = Expect.phaseNumber s.blk.seqPhase ∧
    (w.extractLsb' 2 2).toNat = Expect.awaitNumber s.blk.awaitSub ∧
    (w.extractLsb' 4 3).toNat = Expect.modeNumber s.blk.bsMode ∧ w.getLsbD 7 = s.blk.tDataV ∧
    w.extractLsb' 8 4 = s.blk.rxIdx ∧ w.extractLsb' 12 4 = s.blk.txIdx ∧
    (w.extractLsb' 16 2).toNat = Expect.kindNumber s.blk.tKind ∧
    w.extractLsb' 18 2 = s.blk.tResends ∧
    w.getLsbD 20 = s.blk.tNack ∧ w.getLsbD 21 = s.blk.clkDrv ∧ w.getLsbD 22 = s.blk.datDrv ∧
    w.getLsbD 23 = false ∧ w.extractLsb' 24 8 = s.blk.tLast

/-- 44_queries.md R297: a request word that matches no row of R110's map answers 7 in every control state and does nothing else: no element of the block changes, and it is never held. -/
def Obligations.RejectedRequestsAnswerSeven : Prop :=
  ∀ (w : ReqWord) (rest : List Input) (s : State), runnable s = true →
    s.inputs = .req w :: rest → (∀ r ∈ requestRows, w &&& r.mask ≠ r.pattern) →
    step s = .next { s with inputs := rest, out := s.out ++ [.resp 0x00000007#32] }

/-! ### The whole machine -/

/-- A step takes the next input off the list and runs the row it decodes to (00_scope.md R16). -/
def Obligations.StepRunsTheDecodedInput : Prop :=
  ∀ (i : Input) (rest : List Input) (instr : Instr) (s : State), runnable s = true →
    s.inputs = i :: rest → decode s.cfg i = .ok instr →
    step s = exec instr { s with inputs := rest }

/-- Where a step stops or has nothing to do (93_implementation_defined.md, 30_encoding.md R131): an ill-formed configuration and a reserved event word are refused, a state that violates 10_state.md R54 (or R35's range of RX_IDX) faults, and with no input, with an event word of kind 0 or with RST = 0, the block is unchanged. These clauses rest on the model's own choices: the fault outside R35's range (log entry 14), the bounds on MAX_RESEND and SCAN_BUF_MAX among what is ill formed (log entry 16), no change on kind 0, on RST = 0 (log entry 18) and on an empty list (log entries 1 and 18). -/
def Obligations.StepStopsWhereTheSpecSays : Prop :=
  ∀ (s : State) (rest : List Input) (ev : BitVec 3),
    (s.cfg.wf = false → step s = .refused .illFormedConfiguration) ∧
    (s.cfg.wf = true → s.blk.inv = false → step s = .fault .stateViolatesR54) ∧
    (runnable s = true → s.inputs = [] → step s = .next s) ∧
    (runnable s = true → s.inputs = .event 0#3 :: rest → step s = .next { s with inputs := rest }) ∧
    (runnable s = true → s.inputs = .reset 0#1 :: rest → step s = .next { s with inputs := rest }) ∧
    (runnable s = true → s.inputs = .event ev :: rest → ev = 4#3 ∨ ev = 6#3 ∨ ev = 7#3 →
      step s = .refused .reservedEventWord)

/-- The opcode table's word, offered as the next input after reset, is the instruction that runs (log entries 1 and 13). -/
def Obligations.FetchedTableWordRuns : Prop :=
  ∀ (nbits w : Nat) (i : Instr), decodeTableWord nbits w = some i →
    step (State.reset.withFetchWord nbits w) = exec i State.reset

/-- 10_state.md R54: every rule preserves the ten invariants (with R35's range of RX_IDX), from every state that satisfies them, and the configuration never changes (20_memory.md R92). -/
def Obligations.EveryStepKeepsTheInvariants : Prop :=
  ∀ s t : State, step s = .next t → t.blk.inv = true ∧ t.cfg = s.cfg

/-- 00_scope.md R16: every input in every state has a result. In every state in which the machine runs, each of the 31 rows of the opcode table, at every operand, answers a next state, and the machine runs on in it. -/
def Obligations.EveryInstructionAnswers : Prop :=
  ∀ (i : Instr) (s : State), runnable s = true →
    ∃ t, exec i s = .next t ∧ runnable t = true

/-- Only the inputs that the spec has a model refuse, the reserved event words, stop the machine (00_scope.md R16, 30_encoding.md R131). That kind 0 and RST = 0 go on unchanged, and that a byte that is no row runs, is the model's reading (log entries 18 and 19). -/
def Obligations.OnlyRefusedInputsStopTheMachine : Prop :=
  ∀ s : State, runnable s = true → (∀ i ∈ s.inputs.head?, refusedInput i = false) →
    ∃ t, step s = .next t

/-- The reset state is good (70_reset_and_hazards.md R351 with 10_state.md R54, R44, R52; 41_bit_sampler.md R186; 30_encoding.md R114 to R116), and its configuration is well formed (43_scan_decoder.md R260, 00_scope.md R8). The configuration of the reset state is the model's choice where R10 leaves a parameter open (log entry 3, unsafe for a statement about the reset state). -/
def Obligations.ResetStateIsGood : Prop := good State.reset = true

/-- Every step keeps a good state good: T_RESENDS and the scan buffer in their ranges (10_state.md R44, R52), the frame on the wire that of T_LAST, data pulled low exactly while a 0 frame bit is presented (41_bit_sampler.md R186), RESULT without reserved bits (30_encoding.md R114 to R116). -/
def Obligations.EveryStepKeepsGoodStates : Prop :=
  ∀ s t : State, good s = true → step s = .next t → good t = true

/-- 30_encoding.md R143: a step emits at most one item, and never takes one back. -/
def Obligations.StepsEmitAtMostOneItem : Prop :=
  ∀ s t : State, step s = .next t → t.out = s.out ∨ ∃ o, t.out = s.out ++ [o]

/-- 42_sequencer.md R235 and R236: the sequencer leaves IDLE only in a step that takes a transaction request, and it returns to IDLE only in a step that emits Done with the new RESULT, or with RST. -/
def Obligations.OneTransactionAtATime : Prop :=
  ∀ (s t : State), step s = .next t →
    (s.blk.seqPhase = .idle → t.blk.seqPhase ≠ .idle →
      ∃ i rest w, s.inputs = .req w :: rest ∧ decodeReq w = .ok i ∧ i.isTransaction = true ∧
        t.out = s.out) ∧
    (s.blk.seqPhase ≠ .idle → t.blk.seqPhase = .idle →
      (∃ rest, s.inputs = .reset 1#1 :: rest) ∨ t.out = s.out ++ [.done t.blk.result])

/-- 60_exceptions.md R322: a Done carries what RESULT then holds, and RESULT changes only with a Done or by RST (10_state.md R47). -/
def Obligations.DoneCarriesTheResult : Prop :=
  ∀ (s t : State), step s = .next t →
    (∀ w, t.out = s.out ++ [.done w] →
      t.blk.result = w ∧ s.blk.seqPhase ≠ .idle ∧ t.blk.seqPhase = .idle) ∧
    (t.blk.result ≠ s.blk.result →
      (∃ rest, s.inputs = .reset 1#1 :: rest) ∨ t.out = s.out ++ [.done t.blk.result])

/-- 60_exceptions.md R324 with 10_state.md R49 and R50: TM_RATE and TM_DELAY change only by KB_TYPEMATIC or RST, and DEV_ID only by the end of a read-ID or RST. Of every row in every state, and of every step, so also of a device byte that is no row (log entry 19). -/
def Obligations.DeviceStateHasFewWriters : Prop :=
  (∀ (i : Instr) (s t : State), exec i s = .next t → i ≠ .rst →
    ((∀ r d, i ≠ .kbTypematic r d) →
      t.blk.tmRate = s.blk.tmRate ∧ t.blk.tmDelay = s.blk.tmDelay) ∧
    (t.blk.devId ≠ s.blk.devId →
      ∃ w, t.out = s.out ++ [.done w] ∧ w.extractLsb' 0 4 = 3#4 ∧
        w.extractLsb' 16 16 = t.blk.devId)) ∧
  (∀ s t : State, step s = .next t →
    ((t.blk.tmRate, t.blk.tmDelay) ≠ (s.blk.tmRate, s.blk.tmDelay) →
      (∃ rest, s.inputs = .reset 1#1 :: rest) ∨
      ∃ w rest r d, s.inputs = .req w :: rest ∧ decodeReq w = .ok (.kbTypematic r d)) ∧
    (t.blk.devId ≠ s.blk.devId →
      (∃ rest, s.inputs = .reset 1#1 :: rest) ∨
      ∃ w, t.out = s.out ++ [.done w] ∧ w.extractLsb' 0 4 = 3#4 ∧
        w.extractLsb' 16 16 = t.blk.devId))

/-- 10_state.md R48 with 43_scan_decoder.md R271: an LED bit changes only by KB_SETLEDS, by RST, or by an inbound byte while no transaction is in flight, which is a FALL or a device byte; and no lock-key toggle puts anything on the wire or emits anything (R275). Of every row in every state, and of every step, so also of a device byte that is no row (log entry 19). -/
def Obligations.LedBitsChangeOnlyByRequestOrDecoder : Prop :=
  (∀ (i : Instr) (s t : State), exec i s = .next t → i ≠ .rst →
    (∀ x y z, i ≠ .kbSetleds x y z) →
    (t.blk.ledCaps, t.blk.ledNum, t.blk.ledScroll) ≠
      (s.blk.ledCaps, s.blk.ledNum, s.blk.ledScroll) →
    ((∃ d, i = .fall d) ∨ i = .respAck ∨ i = .respResend ∨ i = .respReady) ∧
      s.blk.seqPhase = .idle ∧ t.blk.seqPhase = .idle ∧ t.blk.clkDrv = s.blk.clkDrv ∧
      t.blk.datDrv = s.blk.datDrv ∧ t.out = s.out) ∧
  (∀ s t : State, step s = .next t →
    (t.blk.ledCaps, t.blk.ledNum, t.blk.ledScroll) ≠
      (s.blk.ledCaps, s.blk.ledNum, s.blk.ledScroll) →
    (∃ rest, s.inputs = .reset 1#1 :: rest) ∨
    (∃ w rest x y z, s.inputs = .req w :: rest ∧ decodeReq w = .ok (.kbSetleds x y z) ∧
      t.blk.ledCaps = x ∧ t.blk.ledNum = y ∧ t.blk.ledScroll = z) ∨
    (∃ i rest, s.inputs = i :: rest ∧ Expect.inbound i ∧ s.blk.seqPhase = .idle ∧
      t.blk.seqPhase = .idle ∧ t.blk.clkDrv = s.blk.clkDrv ∧ t.blk.datDrv = s.blk.datDrv ∧
      t.out = s.out))

/-- 70_reset_and_hazards.md R350: RST is accepted in every state, emits nothing, not even a Done for a transaction in flight, releases both lines, and leaves what is held at the host; the held request, whichever of the eight it is, is then accepted when it is offered again. The held list and its acceptance on a second offer are the model's record of the port (log entries 7 and 9). -/
def Obligations.RstAbandonsSilentlyAndKeepsTheHeldRequest : Prop :=
  ∀ s : State, ∃ t, exec .rst s = .next t ∧ t.out = s.out ∧ t.held = s.held ∧
    t.blk.seqPhase = .idle ∧ t.blk.clkDrv = false ∧ t.blk.datDrv = false ∧
    ∀ (i : Instr) (w : ReqWord) (rest : List ReqWord), i.isTransaction = true →
      encode s.cfg i = .req w → s.held = w :: rest →
      exec i t = .next { t with held := rest, blk := Expect.accepted t.cfg t.blk i }

/-- A transaction request offered while the sequencer is idle, behind a different held request, is not accepted: the block and the outputs are unchanged and it waits behind what is held, once more if it waits there already. The spec says that it is stuck at the host until the held one is accepted (70_reset_and_hazards.md R362, 93_implementation_defined.md); the list and the count of repeated offers are the model's choice (log entries 8 and 27). -/
def Obligations.RequestsWaitBehindTheHeldOne : Prop :=
  ∀ (i : Instr) (w v : ReqWord) (rest : List ReqWord) (s : State), i.isTransaction = true →
    encode s.cfg i = .req w → s.blk.seqPhase = .idle → s.held = v :: rest → v ≠ w →
    portOffers w s = false ∧ exec i s = .next { s with held := s.held ++ [w] }

/-- A host byte in any of its three places, row of the table or not, that is not the byte the block is about to send is taken off the inputs and changes nothing else. That is the model's choice (log entries 11 and 19). -/
def Obligations.HostBytesOffTheWireChangeNothing : Prop :=
  ∀ (i : Input) (b : Byte) (rest : List Input) (s : State), runnable s = true →
    (i = .hostCommand b ∨ i = .hostLedData b ∨ i = .hostTypematicData b) →
    s.inputs = i :: rest → ¬(s.blk.bsMode = .inhibit ∧ s.blk.txFrame = encodeFrame b) →
    step s = .next { s with inputs := rest }
end

