-- ==== Sys2Proof/Laws/State.lean ====
section
/-! SUPPORT. One lemma per field per update of the state, and the reading lemmas of sequences of operations. -/

namespace Sys2Proof.Machine

/-! ### The four updates -/

@[simp] theorem withBlk_blk (s : State) (k : Block) : (s.withBlk k).blk = k := rfl
@[simp] theorem withBlk_cfg (s : State) (k : Block) : (s.withBlk k).cfg = s.cfg := rfl
@[simp] theorem withBlk_inputs (s : State) (k : Block) : (s.withBlk k).inputs = s.inputs := rfl
@[simp] theorem withBlk_held (s : State) (k : Block) : (s.withBlk k).held = s.held := rfl
@[simp] theorem withBlk_out (s : State) (k : Block) : (s.withBlk k).out = s.out := rfl

@[simp] theorem emit_blk (s : State) (o : Output) : (s.emit o).blk = s.blk := rfl
@[simp] theorem emit_cfg (s : State) (o : Output) : (s.emit o).cfg = s.cfg := rfl
@[simp] theorem emit_inputs (s : State) (o : Output) : (s.emit o).inputs = s.inputs := rfl
@[simp] theorem emit_held (s : State) (o : Output) : (s.emit o).held = s.held := rfl
@[simp] theorem emit_out (s : State) (o : Output) : (s.emit o).out = s.out ++ [o] := rfl

@[simp] theorem withHeld_blk (s : State) (h : List ReqWord) : (s.withHeld h).blk = s.blk := rfl
@[simp] theorem withHeld_cfg (s : State) (h : List ReqWord) : (s.withHeld h).cfg = s.cfg := rfl
@[simp] theorem withHeld_inputs (s : State) (h : List ReqWord) : (s.withHeld h).inputs = s.inputs := rfl
@[simp] theorem withHeld_held (s : State) (h : List ReqWord) : (s.withHeld h).held = h := rfl
@[simp] theorem withHeld_out (s : State) (h : List ReqWord) : (s.withHeld h).out = s.out := rfl

@[simp] theorem withInputs_blk (s : State) (is : List Input) : (s.withInputs is).blk = s.blk := rfl
@[simp] theorem withInputs_cfg (s : State) (is : List Input) : (s.withInputs is).cfg = s.cfg := rfl
@[simp] theorem withInputs_inputs (s : State) (is : List Input) : (s.withInputs is).inputs = is := rfl
@[simp] theorem withInputs_held (s : State) (is : List Input) : (s.withInputs is).held = s.held := rfl
@[simp] theorem withInputs_out (s : State) (is : List Input) : (s.withInputs is).out = s.out := rfl

@[simp] theorem withBlk_self (s : State) : s.withBlk s.blk = s := rfl
@[simp] theorem withBlk_withBlk (s : State) (k l : Block) : (s.withBlk k).withBlk l = s.withBlk l := rfl

/-! ### Sequences of operations -/

@[simp] theorem andThen_next (s : State) (f : State → Result) : andThen (.next s) f = f s := rfl
@[simp] theorem andThen_fault (e : Fault) (f : State → Result) : andThen (.fault e) f = .fault e := rfl
@[simp] theorem andThen_refused (e : Refusal) (f : State → Result) :
    andThen (.refused e) f = .refused e := rfl

/-- A sequence that answers a next state went through one. -/
theorem andThen_eq_next {r : Result} {f : State → Result} {t : State} (h : andThen r f = .next t) :
    ∃ u, r = .next u ∧ f u = .next t := by
  cases r with
  | next u => exact ⟨u, rfl, h⟩
  | fault e => simp at h
  | refused e => simp at h

@[simp] theorem edges_nil (s : State) : edges [] s = .next s := rfl
@[simp] theorem edges_cons (d : Bool) (ds : List Bool) (s : State) :
    edges (d :: ds) s = andThen (edge d s) (edges ds) := rfl

/-! ### The shared operations, field by field -/

@[simp] theorem finish_blk (c : ResultCode) (b : Byte) (id : BitVec 16) (s : State) :
    (finish c b id s).blk = s.blk.finishWith (resultWord c s.blk.tNack b id) := rfl
@[simp] theorem finish_cfg (c : ResultCode) (b : Byte) (id : BitVec 16) (s : State) :
    (finish c b id s).cfg = s.cfg := rfl
@[simp] theorem finish_inputs (c : ResultCode) (b : Byte) (id : BitVec 16) (s : State) :
    (finish c b id s).inputs = s.inputs := rfl
@[simp] theorem finish_held (c : ResultCode) (b : Byte) (id : BitVec 16) (s : State) :
    (finish c b id s).held = s.held := rfl
@[simp] theorem finish_out (c : ResultCode) (b : Byte) (id : BitVec 16) (s : State) :
    (finish c b id s).out = s.out ++ [.done (resultWord c s.blk.tNack b id)] := rfl

@[simp] theorem resetBlock_blk (s : State) : (resetBlock s).blk = Block.reset := rfl
@[simp] theorem resetBlock_cfg (s : State) : (resetBlock s).cfg = s.cfg := rfl
@[simp] theorem resetBlock_inputs (s : State) : (resetBlock s).inputs = s.inputs := rfl
@[simp] theorem resetBlock_held (s : State) : (resetBlock s).held = s.held := rfl
@[simp] theorem resetBlock_out (s : State) : (resetBlock s).out = s.out := rfl

end Sys2Proof.Machine
end

