-- ==== Sys2Proof/Laws/Ops.lean ====
section
/-! SUPPORT. One lemma per shared operation that says once everything it can do, for the provers to cite. -/

namespace Sys2Proof.Machine

/-! ### R54, clause by clause -/

/-- The clauses of 10_state.md R54, and R35's range. -/
theorem inv_iff (k : Block) : k.inv = true ↔
    (k.invA = true ∧ k.invB = true ∧ k.invC = true ∧ k.invD = true ∧ k.invE = true ∧
     k.invF = true ∧ k.invG = true ∧ k.invH = true ∧ k.invI = true ∧ k.invJ = true ∧
     k.rxInRange = true) := by
  simp only [Block.inv, Bool.and_eq_true, and_assoc]

theorem runnable_iff (s : State) : runnable s = true ↔ s.cfg.wf = true ∧ s.blk.inv = true := by
  simp [runnable]

theorem runnable_congr {s t : State} (hc : t.cfg = s.cfg) (hk : t.blk.inv = true)
    (hs : runnable s = true) : runnable t = true := by
  simp_all [runnable]

/-! ### The hold (42_sequencer.md R201) -/

/-- Everything an offered request can do. -/
theorem offer_cases (w : ReqWord) (f : State → State) (s : State) :
    (s.blk.seqPhase = .idle ∧ portOffers w s = true ∧
      offer w f s = .next (f (s.withHeld s.held.tail))) ∨
    (∃ h, offer w f s = .next (s.withHeld h)) := by
  unfold offer portOffers
  cases hh : s.held with
  | nil =>
    by_cases hi : s.blk.seqPhase = .idle
    · refine .inl ⟨hi, rfl, ?_⟩
      have : s.withHeld [] = s := by cases s; cases hh; rfl
      simp [hi, this]
    · exact .inr ⟨[w], by simp [hi]⟩
  | cons v rest =>
    by_cases hv : v = w
    · by_cases hi : s.blk.seqPhase = .idle
      · exact .inl ⟨hi, by simp [hv], by simp [hi, hv]⟩
      · refine .inr ⟨s.held, ?_⟩
        simp [hi, hv, State.withHeld]
    · exact .inr ⟨v :: rest ++ [w], by simp [hv]⟩

/-- An offered request that the port offers to an idle block is accepted. -/
theorem offer_accepted {w : ReqWord} {f : State → State} {s : State}
    (hi : s.blk.seqPhase = .idle) (hp : portOffers w s = true) :
    offer w f s = .next (f (s.withHeld s.held.tail)) := by
  unfold offer
  unfold portOffers at hp
  cases hh : s.held with
  | nil =>
    have : s.withHeld [] = s := by cases s; cases hh; rfl
    simp [hi, this]
  | cons v rest => simp_all

/-- An offered request that the port does not offer waits behind what is held (log entries 8 and 27). -/
theorem offer_behind {w v : ReqWord} {rest : List ReqWord} {f : State → State} {s : State}
    (hh : s.held = v :: rest) (hv : v ≠ w) : offer w f s = .next (s.withHeld (s.held ++ [w])) := by
  simp only [offer, hh, if_neg hv]

/-! ### Edges -/

/-- Everything a falling edge can do when it answers a next state: the six rows of 41_bit_sampler.md R170. -/
theorem edge_cases {d : Bool} {s t : State} (h : edge d s = .next t) :
    ((s.blk.bsMode = .idle ∨ s.blk.bsMode = .receiving) ∧ s.blk.rxIdx.toNat < 10 ∧
      t = s.withBlk (s.blk.receiveBit d)) ∨
    (s.blk.bsMode = .receiving ∧ s.blk.rxIdx.toNat = 10 ∧ receiveLast d s = .next t) ∨
    (s.blk.bsMode = .inhibit ∧ t = s) ∨
    (s.blk.bsMode = .transmitting ∧ 1 ≤ s.blk.txIdx.toNat ∧ s.blk.txIdx.toNat ≤ 9 ∧
      t = s.withBlk s.blk.presentBit) ∨
    (s.blk.bsMode = .transmitting ∧ s.blk.txIdx.toNat = 10 ∧ t = s.withBlk s.blk.presentStop) ∨
    (s.blk.bsMode = .ack ∧ s.blk.txIdx.toNat = 11 ∧ t = s.withBlk (s.blk.sampleAck s.cfg d)) := by
  unfold edge at h
  cases hm : s.blk.bsMode <;> simp only [hm] at h
  case idle =>
    split at h
    · cases h; exact .inl ⟨.inl rfl, ‹_›, rfl⟩
    · cases h
  case receiving =>
    split at h
    · cases h; exact .inl ⟨.inr rfl, ‹_›, rfl⟩
    · split at h
      · exact .inr (.inl ⟨rfl, ‹_›, h⟩)
      · cases h
  case inhibit => cases h; exact .inr (.inr (.inl ⟨rfl, rfl⟩))
  case transmitting =>
    split at h
    · cases h; rename_i hx; exact .inr (.inr (.inr (.inl ⟨rfl, hx.1, hx.2, rfl⟩)))
    · split at h
      · cases h; exact .inr (.inr (.inr (.inr (.inl ⟨rfl, ‹_›, rfl⟩))))
      · cases h
  case ack =>
    split at h
    · cases h; exact .inr (.inr (.inr (.inr (.inr ⟨rfl, ‹_›, rfl⟩))))
    · cases h

/-- Everything DISPATCH can do when it answers a next state (42_sequencer.md R232). -/
theorem dispatch_cases {b : Byte} {s t : State} (h : dispatch b s = .next t) :
    (s.blk.seqPhase = .await ∧ t = onResponse b s) ∨
    (s.blk.seqPhase = .idle ∧ t = scanByte b s) := by
  unfold dispatch at h
  cases hp : s.blk.seqPhase <;> simp only [hp] at h <;> cases h
  · exact .inr ⟨rfl, rfl⟩
  · exact .inl ⟨rfl, rfl⟩

/-- Everything the last edge of a frame can do when it answers a next state (41_bit_sampler.md R172). -/
theorem receiveLast_cases {d : Bool} {s t : State} (h : receiveLast d s = .next t) :
    (∃ b, decodeFrame (s.blk.rxFrame d) = .byte b ∧
      dispatch b (s.withBlk s.blk.clearRx) = .next t) ∨
    (∃ p q, decodeFrame (s.blk.rxFrame d) = .bad p q ∧
      t = s.withBlk (s.blk.clearRx.countBad p q)) := by
  unfold receiveLast at h
  split at h
  · exact .inl ⟨_, ‹_›, h⟩
  · cases h; exact .inr ⟨_, _, ‹_›, rfl⟩

/-- Everything a response byte can do (42_sequencer.md R220 to R226): the transaction moves to another wait, a byte is sent, or the transaction ends. -/
theorem onResponse_cases (b : Byte) (s : State) :
    (s.blk.awaitSub = .awAck ∧ s.blk.tKind = .reset ∧
      onResponse b s = s.withBlk (s.blk.awaitFor .awReady)) ∨
    (s.blk.awaitSub = .awAck ∧ s.blk.tKind = .readId ∧
      onResponse b s = s.withBlk (s.blk.awaitFor .awId0)) ∨
    (s.blk.awaitSub = .awId0 ∧
      onResponse b s = s.withBlk ((s.blk.storeIdLow b).awaitFor .awId1)) ∨
    (s.blk.awaitSub = .awAck ∧ s.blk.tKind = .twoPhase ∧ s.blk.tDataV = true ∧
      onResponse b s = s.withBlk s.blk.sendData) ∨
    (s.blk.awaitSub = .awAck ∧ s.blk.tResends.toNat < s.cfg.maxResend ∧
      onResponse b s = s.withBlk s.blk.sendAgain) ∨
    (∃ c x, c ≠ .none ∧ c ≠ .rejected ∧ c ≠ .deviceId ∧ onResponse b s = finish c x 0#16 s) ∨
    (∃ id, onResponse b s = finish .deviceId 0#8 id (s.withBlk (s.blk.storeDevId id))) := by
  have fin (c : ResultCode) (x : Byte) (h1 : c ≠ .none) (h2 : c ≠ .rejected) (h3 : c ≠ .deviceId) :
      ∃ c' x', c' ≠ .none ∧ c' ≠ .rejected ∧ c' ≠ .deviceId ∧
        finish c x 0#16 s = finish c' x' 0#16 s := ⟨c, x, h1, h2, h3, rfl⟩
  cases hs : s.blk.awaitSub <;>
    simp only [onResponse, hs, onAwaitAck, onAwaitReady, onId0, onId1, onAck, onResend]
  case awAck =>
    split
    · cases hk : s.blk.tKind
      · exact .inr (.inr (.inr (.inr (.inr (.inl (fin _ _ (by decide) (by decide) (by decide)))))))
      · by_cases hv : s.blk.tDataV = true
        · exact .inr (.inr (.inr (.inl ⟨by trivial, by trivial, hv, by simp [hv]⟩)))
        · simp only [hv]
          exact .inr (.inr (.inr (.inr (.inr (.inl (fin _ _ (by decide) (by decide) (by decide)))))))
      · exact .inl ⟨by trivial, by trivial, rfl⟩
      · exact .inr (.inl ⟨by trivial, by trivial, rfl⟩)
    · split
      · split
        · exact .inr (.inr (.inr (.inr (.inl ⟨by trivial, ‹_›, rfl⟩))))
        · exact .inr (.inr (.inr (.inr (.inr (.inl (fin _ _ (by decide) (by decide) (by decide)))))))
      · split <;>
          exact .inr (.inr (.inr (.inr (.inr (.inl (fin _ _ (by decide) (by decide) (by decide)))))))
  case awReady =>
    split <;>
      exact .inr (.inr (.inr (.inr (.inr (.inl (fin _ _ (by decide) (by decide) (by decide)))))))
  case awId0 => exact .inr (.inr (.inl ⟨by trivial, by trivial⟩))
  case awId1 => exact .inr (.inr (.inr (.inr (.inr (.inr ⟨_, rfl⟩)))))

/-- Everything a resolved key can do (43_scan_decoder.md R270). -/
theorem resolve_cases (k : KeyId) (p : Bool) (s : State) :
    (∃ l, lockOf s.cfg k = some l ∧
      resolve k p s = s.withBlk (if p then s.blk.lockPress l else s.blk.lockRelease l)) ∨
    (lockOf s.cfg k = none ∧ resolve k p s = s.emit (.key k p)) := by
  unfold resolve
  cases h : lockOf s.cfg k with
  | some l => exact .inl ⟨l, rfl, rfl⟩
  | none => exact .inr ⟨rfl, rfl⟩

/-- Everything a scan byte can do (43_scan_decoder.md R264 to R266). -/
theorem scanByte_cases (b : Byte) (s : State) :
    (∃ k p, scanByte b s = resolve k p (s.withBlk s.blk.clearScan)) ∨
    (s.cfg.scanBufMax ≤ s.blk.sbLen.toNat + 1 ∧ scanByte b s = s.withBlk s.blk.desync) ∨
    (s.blk.sbLen.toNat + 1 < s.cfg.scanBufMax ∧ scanByte b s = s.withBlk (s.blk.keepByte b)) := by
  unfold scanByte
  cases hm : matchCode s.cfg.keyTable (s.blk.scanAcc b) with
  | press k => exact .inl ⟨k, true, rfl⟩
  | release k => exact .inl ⟨k, false, rfl⟩
  | none =>
    by_cases h : s.cfg.scanBufMax ≤ s.blk.sbLen.toNat + 1
    · exact .inr (.inl ⟨h, by simp only [if_pos h]⟩)
    · exact .inr (.inr ⟨by omega, by simp only [if_neg h]⟩)

/-! ### What edges leave alone -/

/-- No scan byte touches the configuration, the inputs or the held requests. -/
theorem scanByte_frame (b : Byte) (s : State) :
    (scanByte b s).cfg = s.cfg ∧ (scanByte b s).inputs = s.inputs ∧ (scanByte b s).held = s.held := by
  obtain ⟨k, p, h⟩ | ⟨-, h⟩ | ⟨-, h⟩ := scanByte_cases b s
  · rw [h]
    obtain ⟨l, -, h'⟩ | ⟨-, h'⟩ := resolve_cases k p (s.withBlk s.blk.clearScan) <;> rw [h'] <;> simp
  · simp [h]
  · simp [h]

/-- No response touches the configuration, the inputs or the held requests. -/
theorem onResponse_frame (b : Byte) (s : State) :
    (onResponse b s).cfg = s.cfg ∧ (onResponse b s).inputs = s.inputs ∧
      (onResponse b s).held = s.held := by
  obtain ⟨-, -, h⟩ | ⟨-, -, h⟩ | ⟨-, h⟩ | ⟨-, -, -, h⟩ | ⟨-, -, h⟩ | ⟨c, x, -, -, -, h⟩ | ⟨id, h⟩ :=
    onResponse_cases b s <;> rw [h] <;> simp

/-- No edge touches the configuration, the inputs or the held requests. -/
theorem edge_frame {d : Bool} {s t : State} (h : edge d s = .next t) :
    t.cfg = s.cfg ∧ t.inputs = s.inputs ∧ t.held = s.held := by
  obtain ⟨-, -, rfl⟩ | ⟨-, -, h⟩ | ⟨-, rfl⟩ | ⟨-, -, -, rfl⟩ | ⟨-, -, rfl⟩ | ⟨-, -, rfl⟩ :=
    edge_cases h
  · simp
  · obtain ⟨b, -, h⟩ | ⟨p, q, -, rfl⟩ := receiveLast_cases h
    · obtain ⟨-, rfl⟩ | ⟨-, rfl⟩ := dispatch_cases h
      · simpa using onResponse_frame b (s.withBlk s.blk.clearRx)
      · simpa using scanByte_frame b (s.withBlk s.blk.clearRx)
    · simp
  all_goals simp

/-- No sequence of edges touches the configuration, the inputs or the held requests. -/
theorem edges_frame {ds : List Bool} {s t : State} (h : edges ds s = .next t) :
    t.cfg = s.cfg ∧ t.inputs = s.inputs ∧ t.held = s.held := by
  induction ds generalizing s with
  | nil => cases h; simp
  | cons d ds ih =>
    obtain ⟨u, hu, h⟩ := andThen_eq_next h
    have h1 := edge_frame hu
    have h2 := ih h
    simp_all

end Sys2Proof.Machine
end

