-- ==== Sys2Proof/Laws/Invariant.lean ====
section
/-! SUPPORT. Every operation on the block keeps the ten invariants of 10_state.md R54, one lemma each, for the provers to cite. -/

namespace Sys2Proof.Machine

/-- R54 as one proposition over the elements. -/
structure Block.Inv (k : Block) : Prop where
  a : k.seqPhase = .inhibit ↔ k.bsMode = .inhibit
  b : k.seqPhase = .sending ↔ (k.bsMode = .transmitting ∨ k.bsMode = .ack)
  c : (k.seqPhase = .idle ∨ k.seqPhase = .await) ↔ (k.bsMode = .idle ∨ k.bsMode = .receiving)
  d : k.rxIdx ≠ 0#4 ↔ k.bsMode = .receiving
  d' : ∀ i, i < 11 → k.rxIdx.toNat ≤ i → k.rxShift.getLsbD i = false
  e : k.clkDrv = true ↔ k.bsMode = .inhibit
  f : k.datDrv = true → k.bsMode = .transmitting
  g1 : k.bsMode = .transmitting → 1 ≤ k.txIdx.toNat ∧ k.txIdx.toNat ≤ 10
  g2 : k.bsMode = .ack → k.txIdx = 11#4
  g3 : k.bsMode = .idle ∨ k.bsMode = .receiving ∨ k.bsMode = .inhibit → k.txIdx = 0#4
  h : k.tDataV = true → k.tKind = .twoPhase
  i : k.seqPhase = .idle → k.awaitSub = .awAck ∧ k.tKind = .generic ∧ k.tDataV = false ∧
    k.tData = 0#8 ∧ k.tResends = 0#2 ∧ k.tIdlo = 0#8 ∧ k.tNack = false
  j1 : k.awaitSub = .awReady → k.tKind = .reset ∧ k.seqPhase = .await
  j2 : k.awaitSub = .awId0 ∨ k.awaitSub = .awId1 → k.tKind = .readId ∧ k.seqPhase = .await
  r : k.rxIdx.toNat ≤ 10

theorem inv_iff_Inv (k : Block) : k.inv = true ↔ k.Inv := by
  rw [inv_iff]
  constructor
  · rintro ⟨a, b, c, d, e, f, g, h, i, j, r⟩
    simp only [Block.invA, Block.invB, Block.invC, Block.invD, Block.invE, Block.invF, Block.invH, Block.invI, Block.rxInRange,
      decide_eq_true_eq, Bool.and_eq_true] at a b c d e f h i r
    refine ⟨a, b, c, d.1, fun i hi hj => d.2 ⟨i, hi⟩ hj, e, f, ?_, ?_, ?_, h, i, ?_, ?_, r⟩
    · intro hm; simpa [Block.invG, hm] using g
    · intro hm; simpa [Block.invG, hm] using g
    · rintro (hm | hm | hm) <;> simpa [Block.invG, hm] using g
    · intro hm; simpa [Block.invJ, hm] using j
    · rintro (hm | hm) <;> simpa [Block.invJ, hm] using j
  · intro k'
    refine ⟨?_, ?_, ?_, ?_, ?_, ?_, ?_, ?_, ?_, ?_, ?_⟩
    · simpa only [Block.invA, decide_eq_true_eq] using k'.a
    · simpa only [Block.invB, decide_eq_true_eq] using k'.b
    · simpa only [Block.invC, decide_eq_true_eq] using k'.c
    · simp only [Block.invD, decide_eq_true_eq, Bool.and_eq_true]; exact ⟨k'.d, fun i => k'.d' i.1 i.2⟩
    · simpa only [Block.invE, decide_eq_true_eq] using k'.e
    · simpa only [Block.invF, decide_eq_true_eq] using k'.f
    · unfold Block.invG
      cases hm : k.bsMode <;> simp only [decide_eq_true_eq]
      · exact k'.g3 (by simp [hm])
      · exact k'.g3 (by simp [hm])
      · exact k'.g3 (by simp [hm])
      · exact k'.g1 hm
      · exact k'.g2 hm
    · simpa only [Block.invH, decide_eq_true_eq] using k'.h
    · simpa only [Block.invI, decide_eq_true_eq] using k'.i
    · unfold Block.invJ
      cases hm : k.awaitSub <;> simp only [decide_eq_true_eq]
      · exact k'.j1 hm
      · exact k'.j2 (.inl hm)
      · exact k'.j2 (.inr hm)
    · simpa only [Block.rxInRange, decide_eq_true_eq] using k'.r

theorem txByte_Inv (b : Byte) (k : Block) (h1 : k.awaitSub = .awAck) (h2 : k.tDataV = true → k.tKind = .twoPhase) :
    (Block.txByte b k).Inv := by
  constructor <;> simp [Block.txByte, h1]
  exact h2

theorem begin_Inv {kind dv} (cmd d) (k : Block) (h2 : dv = true → kind = .twoPhase) :
    (Block.begin kind cmd dv d k).Inv := txByte_Inv _ _ rfl h2

theorem finishWith_Inv (w) {k : Block} (h : k.Inv) (hm : k.bsMode = .idle ∨ k.bsMode = .receiving) :
    (k.finishWith w).Inv := by
  obtain ⟨a,b,c,d,d',e,f,g1,g2,g3,hh,i,j1,j2,r⟩ := h
  constructor <;> simp only [Block.finishWith] <;> first | assumption | (rcases hm with hm | hm <;> simp [hm])

theorem clearRx_Inv {k : Block} (h : k.Inv) (hm : k.bsMode = .receiving) : k.clearRx.Inv := by
  obtain ⟨a,b,c,d,d',e,f,g1,g2,g3,hh,i,j1,j2,r⟩ := h
  constructor <;> simp only [Block.clearRx] <;> first | assumption | simp_all

theorem countBad_Inv (p q) {k : Block} (h : k.Inv) : (k.countBad p q).Inv := by
  obtain ⟨a,b,c,d,d',e,f,g1,g2,g3,hh,i,j1,j2,r⟩ := h
  constructor <;> simp only [Block.countBad] <;> assumption

theorem startFrame_Inv {k : Block} (h : k.Inv) (hm : k.bsMode = .inhibit) : k.startFrame.Inv := by
  obtain ⟨a,b,c,d,d',e,f,g1,g2,g3,hh,i,j1,j2,r⟩ := h
  constructor <;> simp only [Block.startFrame] <;> first | assumption | simp_all

theorem presentBit_Inv {k : Block} (h : k.Inv) (hm : k.bsMode = .transmitting) (h9 : k.txIdx.toNat ≤ 9) : k.presentBit.Inv := by
  obtain ⟨a,b,c,d,d',e,f,g1,g2,g3,hh,i,j1,j2,r⟩ := h
  have := g1 hm
  constructor <;> simp only [Block.presentBit] <;> first | assumption | simp_all
  omega

theorem presentStop_Inv {k : Block} (h : k.Inv) (hm : k.bsMode = .transmitting) : k.presentStop.Inv := by
  obtain ⟨a,b,c,d,d',e,f,g1,g2,g3,hh,i,j1,j2,r⟩ := h
  constructor <;> simp only [Block.presentStop] <;> first | assumption | simp_all

theorem sampleAck_Inv (cf d) {k : Block} (h : k.Inv) (hm : k.bsMode = .ack) : (k.sampleAck cf d).Inv := by
  obtain ⟨a,b,c,d,d',e,f,g1,g2,g3,hh,i,j1,j2,r⟩ := h
  constructor <;> simp only [Block.sampleAck] <;> first | assumption | simp_all

theorem bsAbort_finish_Inv (w) {k : Block} (h : k.Inv) : (k.bsAbort.finishWith w).Inv := by
  obtain ⟨a,b,c,d,d',e,f,g1,g2,g3,hh,i,j1,j2,r⟩ := h
  cases hm : k.bsMode <;> simp only [Block.bsAbort, hm]
  · exact finishWith_Inv w ⟨a,b,c,d,d',e,f,g1,g2,g3,hh,i,j1,j2,r⟩ (.inl hm)
  · exact finishWith_Inv w ⟨a,b,c,d,d',e,f,g1,g2,g3,hh,i,j1,j2,r⟩ (.inr hm)
  all_goals constructor <;> simp [Block.finishWith]

theorem setBit_get (v : BitVec 11) {i : Nat} (d : Bool) (j : Nat) (hi : i < 11):
   (setBit v i d).getLsbD j = if j = i then d else v.getLsbD j := by
  by_cases hj : j < 11
  · simp only [setBit, BitVec.getLsbD_or, BitVec.getLsbD_and, BitVec.getLsbD_not, BitVec.getLsbD_shiftLeft, BitVec.getLsbD_setWidth, BitVec.getLsbD_ofBool]
    rcases Nat.lt_trichotomy j i with h | h | h
    · have : j ≠ i := by omega
      simp [hj, h, this]
    · subst h; simp [hj]
    · have h1 : ¬ j < i := by omega
      have h2 : j ≠ i := by omega
      have h3 : j - i ≠ 0 := by omega
      simp [hj, h1, h2, h3]
  · have : j ≠ i := by omega
    rw [if_neg this, BitVec.getLsbD_of_ge _ _ (by omega), BitVec.getLsbD_of_ge _ _ (by omega)]

theorem receiveBit_Inv (d) {k : Block} (h : k.Inv) (hm : k.bsMode = .idle ∨ k.bsMode = .receiving) (h9 : k.rxIdx.toNat < 10) : (k.receiveBit d).Inv := by
  obtain ⟨a,b,c,dd,d',e,f,g1,g2,g3,hh,i,j1,j2,r⟩ := h
  have hx : (k.rxIdx + 1#4).toNat = k.rxIdx.toNat + 1 := by simp; omega
  have hne : k.rxIdx + 1#4 ≠ 0#4 := fun h0 => by rw [h0] at hx; simp at hx
  constructor <;> simp only [Block.receiveBit]
  case d => simp [hne]
  case r => omega
  case d' =>
    intro i hi hj
    rw [hx] at hj
    rw [setBit_get _ _ _ (by omega)]
    have : i ≠ k.rxIdx.toNat := by omega
    simp only [this, if_false]
    exact d' i hi (by omega)
  all_goals first | assumption | (rcases hm with hm | hm <;> simp_all)

theorem awaitFor_Inv {k : Block} (h : k.Inv) {a : AwaitSub} (hs : k.seqPhase = .await)
   (h1 : a = .awReady → k.tKind = .reset) (h2 : a = .awId0 ∨ a = .awId1 → k.tKind = .readId) : (k.awaitFor a).Inv := by
  obtain ⟨a,b,c,dd,d',e,f,g1,g2,g3,hh,i,j1,j2,r⟩ := h
  constructor <;> simp only [Block.awaitFor] <;> first | assumption | simp_all

theorem storeIdLow_Inv (x) {k : Block} (h : k.Inv) (hs : k.seqPhase = .await) : (k.storeIdLow x).Inv := by
  obtain ⟨a,b,c,dd,d',e,f,g1,g2,g3,hh,i,j1,j2,r⟩ := h
  constructor <;> simp only [Block.storeIdLow] <;> first | assumption | simp_all

theorem storeDevId_Inv (x) {k : Block} (h : k.Inv) : (k.storeDevId x).Inv := by
  obtain ⟨a,b,c,dd,d',e,f,g1,g2,g3,hh,i,j1,j2,r⟩ := h
  constructor <;> simp only [Block.storeDevId] <;> assumption

theorem clearScan_Inv {k : Block} (h : k.Inv) : (k.clearScan).Inv := by
  obtain ⟨a,b,c,dd,d',e,f,g1,g2,g3,hh,i,j1,j2,r⟩ := h
  constructor <;> simp only [Block.clearScan] <;> assumption
theorem desync_Inv {k : Block} (h : k.Inv) : (k.desync).Inv := by
  obtain ⟨a,b,c,dd,d',e,f,g1,g2,g3,hh,i,j1,j2,r⟩ := h
  constructor <;> simp only [Block.clearScan, Block.desync] <;> assumption
theorem keepByte_Inv (x) {k : Block} (h : k.Inv) : (k.keepByte x).Inv := by
  obtain ⟨a,b,c,dd,d',e,f,g1,g2,g3,hh,i,j1,j2,r⟩ := h
  constructor <;> simp only [Block.keepByte] <;> assumption
theorem setLed_Inv (l v) {k : Block} (h : k.Inv) : (k.setLed l v).Inv := by
  obtain ⟨a,b,c,dd,d',e,f,g1,g2,g3,hh,i,j1,j2,r⟩ := h
  cases l <;> constructor <;> simp only [Block.setLed] <;> assumption
theorem setRel_Inv (l v) {k : Block} (h : k.Inv) : (k.setRel l v).Inv := by
  obtain ⟨a,b,c,dd,d',e,f,g1,g2,g3,hh,i,j1,j2,r⟩ := h
  cases l <;> constructor <;> simp only [Block.setRel] <;> assumption
theorem lockPress_Inv (l) {k : Block} (h : k.Inv) : (k.lockPress l).Inv := by
  unfold Block.lockPress
  apply setRel_Inv
  split
  · exact setLed_Inv _ _ h
  · exact h
theorem lockRelease_Inv (l) {k : Block} (h : k.Inv) : (k.lockRelease l).Inv := setRel_Inv _ _ h

theorem resolve_Inv (x p) {s : State} (h : s.blk.Inv) : (resolve x p s).blk.Inv := by
  obtain ⟨l, -, h'⟩ | ⟨-, h'⟩ := resolve_cases x p s <;> rw [h']
  · cases p
    · exact lockRelease_Inv l h
    · exact lockPress_Inv l h
  · exact h

theorem scanByte_Inv (b) {s : State} (h : s.blk.Inv) : (scanByte b s).blk.Inv := by
  obtain ⟨k, p, h'⟩ | ⟨-, h'⟩ | ⟨-, h'⟩ := scanByte_cases b s <;> rw [h']
  · exact resolve_Inv k p (clearScan_Inv h)
  · exact desync_Inv h
  · exact keepByte_Inv b h

theorem onResponse_Inv (b) {s : State} (h : s.blk.Inv) (hs : s.blk.seqPhase = .await) :
    (onResponse b s).blk.Inv := by
  have hm : s.blk.bsMode = .idle ∨ s.blk.bsMode = .receiving := h.c.1 (.inr hs)
  obtain ⟨h1, h2, h'⟩ | ⟨h1, h2, h'⟩ | ⟨h1, h'⟩ | ⟨h1, h2, h3, h'⟩ | ⟨h1, h2, h'⟩ | ⟨c, x, -, -, -, h'⟩ | ⟨id, h'⟩ :=
    onResponse_cases b s <;> rw [h']
  · exact awaitFor_Inv h hs (fun _ => h2) (by simp)
  · exact awaitFor_Inv h hs (by simp) (fun _ => h2)
  · exact awaitFor_Inv (storeIdLow_Inv b h hs) hs (by simp) (fun _ => (h.j2 (.inl h1)).1)
  · exact txByte_Inv _ _ h1 (by simp)
  · exact txByte_Inv _ _ h1 h.h
  · exact finishWith_Inv _ h hm
  · exact finishWith_Inv _ (storeDevId_Inv id h) hm

theorem dispatch_Inv {b} {s t : State} (h : s.blk.Inv) (ht : dispatch b s = .next t) : t.blk.Inv := by
  obtain ⟨hp, rfl⟩ | ⟨hp, rfl⟩ := dispatch_cases ht
  · exact onResponse_Inv b h hp
  · exact scanByte_Inv b h

theorem edge_Inv {d} {s t : State} (h : s.blk.Inv) (ht : edge d s = .next t) : t.blk.Inv := by
  obtain ⟨hm, hi, rfl⟩ | ⟨hm, hi, ht⟩ | ⟨-, rfl⟩ | ⟨hm, -, hi, rfl⟩ | ⟨hm, -, rfl⟩ | ⟨hm, -, rfl⟩ := edge_cases ht
  · exact receiveBit_Inv d h hm hi
  · obtain ⟨b, -, ht⟩ | ⟨p, q, -, rfl⟩ := receiveLast_cases ht
    · exact dispatch_Inv (clearRx_Inv h hm) ht
    · exact countBad_Inv p q (clearRx_Inv h hm)
  · exact h
  · exact presentBit_Inv h hm hi
  · exact presentStop_Inv h hm
  · exact sampleAck_Inv s.cfg d h hm

/-- A byte has an interpreter in every state that R54 allows between two steps. -/
theorem dispatch_next (b : Byte) {s : State} (h : s.blk.Inv)
    (hm : s.blk.bsMode = .idle ∨ s.blk.bsMode = .receiving) : ∃ t, dispatch b s = .next t := by
  unfold dispatch
  rcases h.c.2 hm with hp | hp <;> simp only [hp]
  · exact ⟨_, rfl⟩
  · exact ⟨_, rfl⟩

/-- A frame decoded, then dispatched or counted: it always has a next state. -/
theorem receiveLast_next (d : Bool) {s : State} (h : s.blk.Inv) (hm : s.blk.bsMode = .receiving) :
    ∃ t, receiveLast d s = .next t := by
  unfold receiveLast
  split
  · exact dispatch_next _ (clearRx_Inv h hm) (.inl rfl)
  · exact ⟨_, rfl⟩

theorem edge_receiveBit (d : Bool) {s : State} (hm : s.blk.bsMode = .idle ∨ s.blk.bsMode = .receiving)
    (hi : s.blk.rxIdx.toNat < 10) : edge d s = .next (s.withBlk (s.blk.receiveBit d)) := by
  rcases hm with hm | hm <;> simp [edge, hm, hi]

theorem edge_receiveLast (d : Bool) {s : State} (hm : s.blk.bsMode = .receiving)
    (hi : s.blk.rxIdx.toNat = 10) : edge d s = receiveLast d s := by
  simp [edge, hm, hi]

/-- A frame with one to ten bits gathered. -/
def Block.gathered (v : BitVec 11) (n : Nat) (k : Block) : Block :=
  { k with rxShift := v, rxIdx := BitVec.ofNat 4 n, bsMode := .receiving }

theorem edge_gathered (d : Bool) (v : BitVec 11) (n : Nat) (s : State) (hn : n < 10) :
    edge d (s.withBlk (s.blk.gathered v n))
      = .next (s.withBlk (s.blk.gathered (setBit v n d) (n + 1))) := by
  have h1 : (BitVec.ofNat 4 n).toNat = n := by simp; omega
  rw [edge_receiveBit d (.inr rfl) (by simpa [Block.gathered, h1] using hn)]
  simp [Block.receiveBit, Block.gathered, h1, BitVec.ofNat_add]

theorem rxFrame_of_bits (f : Frame) :
    setBit (setBit (setBit (setBit (setBit (setBit (setBit (setBit (setBit (setBit 0#11
      0 (f.getLsbD 0)) 1 (f.getLsbD 1)) 2 (f.getLsbD 2)) 3 (f.getLsbD 3)) 4 (f.getLsbD 4))
      5 (f.getLsbD 5)) 6 (f.getLsbD 6)) 7 (f.getLsbD 7)) 8 (f.getLsbD 8)) 9 (f.getLsbD 9)
      ||| ((BitVec.ofBool (f.getLsbD 10)).setWidth 11 <<< 10) = f := by
  apply BitVec.eq_of_getLsbD_eq
  intro i hi
  rw [BitVec.getLsbD_or]
  repeat rw [setBit_get _ _ _ (by omega)]
  simp only [BitVec.getLsbD_shiftLeft, BitVec.getLsbD_setWidth, BitVec.getLsbD_ofBool]
  interval_cases i <;> simp

theorem edges_eleven {s : State} (f : Frame) (h : betweenFrames s = true) :
    deviceFrame f s = match decodeFrame f with
      | .byte b => dispatch b s
      | .bad p q => .next (s.withBlk (s.blk.countBad p q)) := by
  simp only [betweenFrames, Bool.and_eq_true, beq_iff_eq] at h
  obtain ⟨⟨hm, hi⟩, hs⟩ := h
  have hclr : ({ s.blk with rxShift := 0#11, rxIdx := 0#4, bsMode := .idle } : Block) = s.blk := by
    rw [← hm, ← hi, ← hs]
  have h1 := rxFrame_of_bits f
  have h0 (d : Bool) : edge d s = .next (s.withBlk (s.blk.gathered (setBit 0#11 0 d) 1)) := by
    rw [edge_receiveBit d (.inl hm) (by simp [hi])]
    simp [Block.receiveBit, Block.gathered, hi, hs]
  unfold deviceFrame wireBits
  rw [edges_cons, h0, andThen_next]
  iterate 9 rw [edges_cons, edge_gathered _ _ _ _ (by decide), andThen_next]
  rw [edges_cons, edge_receiveLast _ rfl rfl]
  unfold receiveLast
  simp only [Block.rxFrame, Block.gathered, withBlk_blk, h1]
  cases decodeFrame f with
  | byte b =>
    simp only [Block.clearRx, withBlk_withBlk, hclr, withBlk_self]
    cases dispatch b s <;> rfl
  | bad p q =>
    simp only [Block.clearRx, withBlk_withBlk, hclr]
    rfl

theorem edge_next (d : Bool) {s : State} (h : s.blk.Inv) : ∃ t, edge d s = .next t := by
  cases hm : s.blk.bsMode
  case idle =>
    have : s.blk.rxIdx = 0#4 := by
      have := h.d; simp_all
    exact ⟨_, edge_receiveBit d (.inl hm) (by simp [this])⟩
  case receiving =>
    by_cases h9 : s.blk.rxIdx.toNat < 10
    · exact ⟨_, edge_receiveBit d (.inr hm) h9⟩
    · rw [edge_receiveLast d hm (by have := h.r; omega)]
      exact receiveLast_next d h hm
  case inhibit => exact ⟨s, by simp [edge, hm]⟩
  case transmitting =>
    have := h.g1 hm
    by_cases h9 : s.blk.txIdx.toNat ≤ 9
    · exact ⟨_, by simp [edge, hm, this.1, h9]; rfl⟩
    · have h10 : s.blk.txIdx.toNat = 10 := by omega
      exact ⟨_, by simp [edge, hm, h10]; rfl⟩
  case ack =>
    have := h.g2 hm
    exact ⟨_, by simp [edge, hm, this]; rfl⟩

end Sys2Proof.Machine
end

