-- ==== Sys2Proof/Laws/PerInstr.lean ====
section
/-! SUPPORT. Per-instruction laws, one lemma per constructor of `Instr`. `EncodesToItsRow`: the bits the encoder writes satisfy the row's match and mask of the encoding tables (30_encoding.md R104 to R107, R110, R131), at every operand and in every configuration. -/

namespace Sys2Proof.Laws

/-- The eight command bytes of R104. -/
def commandBytes (c : Config) : List Byte :=
  [c.cmdReset, c.cmdEnable, c.cmdDisable, c.cmdSetDefault, c.cmdSetLeds, c.cmdSetTypematic,
    c.cmdReadId, c.cmdResend]

/-- The three response codes of R107. -/
def responseBytes (c : Config) : List Byte := [c.respAck, c.respResend, c.respReady]

/-- The row of that name accepts the word (R110). -/
abbrev Selects (name : String) (w : ReqWord) : Prop :=
  ∃ r ∈ requestRows, r.mnemonic = name ∧ w &&& r.mask = r.pattern

/-- The instruction is well formed and its word satisfies its row. -/
def EncodesToItsRow.Statement (i : Instr) : Prop :=
  i.wellFormed = true ∧ ∀ c : Config,
    match encode c i with
    | .req w => Selects i.mnemonic w
    | .event ev => ev.extractLsb' 0 2 ≠ 0#2 ∧ (ev.getLsbD 2 = true → i.mnemonic = "FALL")
    | .reset r => r = 1#1
    | .hostCommand b => b ∈ commandBytes c
    | .hostLedData b => b &&& 0xF8#8 = 0x00#8
    | .hostTypematicData b => b &&& 0x80#8 = 0x00#8
    | .deviceByte b => b ∈ responseBytes c

namespace EncodesToItsRow

theorem kbReset : Statement .kbReset :=
  ⟨rfl, fun _ => (by decide : Selects "KB_RESET" 0x000001#24)⟩
theorem kbEnable : Statement .kbEnable :=
  ⟨rfl, fun _ => (by decide : Selects "KB_ENABLE" 0x000002#24)⟩
theorem kbDisable : Statement .kbDisable :=
  ⟨rfl, fun _ => (by decide : Selects "KB_DISABLE" 0x000003#24)⟩
theorem kbDefaults : Statement .kbDefaults :=
  ⟨rfl, fun _ => (by decide : Selects "KB_DEFAULTS" 0x000004#24)⟩
theorem kbSetleds (caps num scroll : Bool) : Statement (.kbSetleds caps num scroll) :=
  ⟨rfl, fun _ => (by revert caps num scroll; decide :
    Selects "KB_SETLEDS" (packReq 0x5#4 (ledOperand caps num scroll) 0#8))⟩
theorem kbTypematic (rate delay : BitVec 8) : Statement (.kbTypematic rate delay) :=
  ⟨rfl, fun _ => ⟨⟨"KB_TYPEMATIC", 0x000006#24, 0x0000FF#24⟩, by decide, rfl, by
    apply BitVec.eq_of_getLsbD_eq
    intro i hi
    simp only [packReq, BitVec.getLsbD_and, BitVec.getLsbD_or, BitVec.getLsbD_shiftLeft,
      BitVec.getLsbD_setWidth]
    interval_cases i <;> simp⟩⟩
theorem kbReadid : Statement .kbReadid :=
  ⟨rfl, fun _ => (by decide : Selects "KB_READID" 0x000007#24)⟩
theorem kbResend : Statement .kbResend :=
  ⟨rfl, fun _ => (by decide : Selects "KB_RESEND" 0x000008#24)⟩
theorem qLocks : Statement .qLocks :=
  ⟨rfl, fun _ => (by decide : Selects "Q_LOCKS" 0x000009#24)⟩
theorem qResult : Statement .qResult :=
  ⟨rfl, fun _ => (by decide : Selects "Q_RESULT" 0x00000A#24)⟩
theorem qStatus : Statement .qStatus :=
  ⟨rfl, fun _ => (by decide : Selects "Q_STATUS" 0x00000B#24)⟩
theorem qDev : Statement .qDev :=
  ⟨rfl, fun _ => (by decide : Selects "Q_DEV" 0x00000C#24)⟩
theorem qDiag : Statement .qDiag :=
  ⟨rfl, fun _ => (by decide : Selects "Q_DIAG" 0x00000D#24)⟩
theorem qXlat (key : KeyId) : Statement (.qXlat key) :=
  ⟨rfl, fun _ => ⟨⟨"Q_XLAT", 0x00000E#24, 0xFF00FF#24⟩, by decide, rfl, by
    apply BitVec.eq_of_getLsbD_eq
    intro i hi
    simp only [packReq, BitVec.getLsbD_and, BitVec.getLsbD_or, BitVec.getLsbD_shiftLeft,
      BitVec.getLsbD_setWidth]
    interval_cases i <;> simp⟩⟩
theorem fall (d : Bool) : Statement (.fall d) := by
  refine ⟨rfl, fun _ => ⟨?_, fun _ => rfl⟩⟩
  cases d <;> decide
theorem inhdone : Statement .inhdone := ⟨rfl, fun _ => ⟨by decide, by decide⟩⟩
theorem timeout : Statement .timeout := ⟨rfl, fun _ => ⟨by decide, by decide⟩⟩
theorem rst : Statement .rst := ⟨rfl, fun _ => rfl⟩
theorem cmdReset : Statement .cmdReset := ⟨rfl, fun _ => by simp [encode, commandBytes]⟩
theorem cmdEnable : Statement .cmdEnable := ⟨rfl, fun _ => by simp [encode, commandBytes]⟩
theorem cmdDisable : Statement .cmdDisable := ⟨rfl, fun _ => by simp [encode, commandBytes]⟩
theorem cmdSetDefault : Statement .cmdSetDefault := ⟨rfl, fun _ => by simp [encode, commandBytes]⟩
theorem cmdSetLeds : Statement .cmdSetLeds := ⟨rfl, fun _ => by simp [encode, commandBytes]⟩
theorem cmdSetTypematic : Statement .cmdSetTypematic :=
  ⟨rfl, fun _ => by simp [encode, commandBytes]⟩
theorem cmdReadId : Statement .cmdReadId := ⟨rfl, fun _ => by simp [encode, commandBytes]⟩
theorem cmdResend : Statement .cmdResend := ⟨rfl, fun _ => by simp [encode, commandBytes]⟩
theorem ledData (caps num scroll : Bool) : Statement (.ledData caps num scroll) :=
  ⟨rfl, fun _ => (by revert caps num scroll; decide :
    ledByte caps num scroll &&& 0xF8#8 = 0x00#8)⟩
theorem typematicData (rate : BitVec 5) (delay : BitVec 2) : Statement (.typematicData rate delay) :=
  ⟨rfl, fun _ => (by revert rate delay; decide : tmByte rate delay &&& 0x80#8 = 0x00#8)⟩
theorem respAck : Statement .respAck := ⟨rfl, fun _ => by simp [encode, responseBytes]⟩
theorem respResend : Statement .respResend := ⟨rfl, fun _ => by simp [encode, responseBytes]⟩
theorem respReady : Statement .respReady := ⟨rfl, fun _ => by simp [encode, responseBytes]⟩

end EncodesToItsRow

end Sys2Proof.Laws
end

