-- ==== Sys2Proof/Laws/Step.lean ====
section
/-! SUPPORT. What a step is on each kind of input, so that a proof about step need not unfold the decoder. -/

namespace Sys2Proof.Machine

/-- A step that runs takes the next input off the list and runs its row, or what an input of no row does. -/
theorem step_next_input {i : Input} {rest : List Input} {s : State} (hr : runnable s = true)
    (hi : s.inputs = i :: rest) :
    step s = match decode s.cfg i with
      | .ok instr => exec instr (s.withInputs rest)
      | .error r => onReject i r (s.withInputs rest) := by
  cases s
  subst hi
  exact if_pos hr

/-- A step that answers a next state ran from a runnable state. -/
theorem step_runnable {s t : State} (h : step s = .next t) : runnable s = true := by
  unfold step at h
  split at h
  · assumption
  · unfold stopReason at h
    split at h <;> cases h

/-- A device byte, row of the table or not, is its eleven edges. -/
theorem step_deviceByte {b : Byte} {rest : List Input} {s : State} (hr : runnable s = true)
    (hi : s.inputs = .deviceByte b :: rest) : step s = deviceByte b (s.withInputs rest) := by
  rw [step_next_input hr hi]
  simp only [decode, decodeDeviceByte]
  by_cases h1 : b = s.cfg.respAck
  · simp only [if_pos h1]; subst h1; rfl
  · by_cases h2 : b = s.cfg.respResend
    · simp only [if_neg h1, if_pos h2]; subst h2; rfl
    · by_cases h3 : b = s.cfg.respReady
      · simp only [if_neg h1, if_neg h2, if_pos h3]; subst h3; rfl
      · simp only [if_neg h1, if_neg h2, if_neg h3]; rfl

/-- The LED data byte is put together from its own bits (30_encoding.md R105). -/
theorem ledByte_of_bits (b : Byte) (h : b &&& 0xF8#8 = 0x00#8) :
    ledByte (b.getLsbD 2) (b.getLsbD 1) (b.getLsbD 0) = b := by
  revert b; decide +kernel

/-- The typematic data byte is put together from its own fields (30_encoding.md R106). -/
theorem tmByte_of_fields (b : Byte) (h : b &&& 0x80#8 = 0x00#8) :
    tmByte (b.extractLsb' 0 5) (b.extractLsb' 5 2) = b := by
  revert b; decide +kernel

/-- A host byte in command position that is no row, or the row that it is, is the byte on the wire. -/
theorem step_hostCommand {b : Byte} {rest : List Input} {s : State} (hr : runnable s = true)
    (hi : s.inputs = .hostCommand b :: rest) : step s = hostByte b (s.withInputs rest) := by
  rw [step_next_input hr hi]
  simp only [decode, decodeCommand]
  by_cases h1 : b = s.cfg.cmdReset
  · rw [if_pos h1]; subst h1; rfl
  by_cases h2 : b = s.cfg.cmdEnable
  · rw [if_neg h1, if_pos h2]; subst h2; rfl
  by_cases h3 : b = s.cfg.cmdDisable
  · rw [if_neg h1, if_neg h2, if_pos h3]; subst h3; rfl
  by_cases h4 : b = s.cfg.cmdSetDefault
  · rw [if_neg h1, if_neg h2, if_neg h3, if_pos h4]; subst h4; rfl
  by_cases h5 : b = s.cfg.cmdSetLeds
  · rw [if_neg h1, if_neg h2, if_neg h3, if_neg h4, if_pos h5]; subst h5; rfl
  by_cases h6 : b = s.cfg.cmdSetTypematic
  · rw [if_neg h1, if_neg h2, if_neg h3, if_neg h4, if_neg h5, if_pos h6]; subst h6; rfl
  by_cases h7 : b = s.cfg.cmdReadId
  · rw [if_neg h1, if_neg h2, if_neg h3, if_neg h4, if_neg h5, if_neg h6, if_pos h7]; subst h7; rfl
  by_cases h8 : b = s.cfg.cmdResend
  · rw [if_neg h1, if_neg h2, if_neg h3, if_neg h4, if_neg h5, if_neg h6, if_neg h7, if_pos h8]
    subst h8; rfl
  · rw [if_neg h1, if_neg h2, if_neg h3, if_neg h4, if_neg h5, if_neg h6, if_neg h7, if_neg h8]; rfl

/-- A host byte in the place of the LED data byte, row or not, is the byte on the wire. -/
theorem step_hostLedData {b : Byte} {rest : List Input} {s : State} (hr : runnable s = true)
    (hi : s.inputs = .hostLedData b :: rest) : step s = hostByte b (s.withInputs rest) := by
  rw [step_next_input hr hi]
  simp only [decode, decodeLedData]
  by_cases h : b &&& 0xF8#8 = 0x00#8
  · simp only [if_pos h, exec, execLedData, ledByte_of_bits b h]
  · simp only [if_neg h]; rfl

/-- A host byte in the place of the typematic data byte, row or not, is the byte on the wire. -/
theorem step_hostTypematicData {b : Byte} {rest : List Input} {s : State} (hr : runnable s = true)
    (hi : s.inputs = .hostTypematicData b :: rest) : step s = hostByte b (s.withInputs rest) := by
  rw [step_next_input hr hi]
  simp only [decode, decodeTypematicData]
  by_cases h : b &&& 0x80#8 = 0x00#8
  · simp only [if_pos h, exec, execTypematicData, tmByte_of_fields b h]
  · simp only [if_neg h]; rfl

end Sys2Proof.Machine
end

