-- ==== Sys2Proof/Tests/Slice0.lean ====
section
/-! SUPPORT. The model's own tests: ill-formed configurations that WellFormed refuses; every row's decoding shown by a word written out from the encoding tables of spec/30_encoding.md; single steps with the results that spec/95_test_vectors.md gives; and, for every statement with hypotheses, a state that meets them. -/

namespace Sys2Proof.Tests

open Sys2Proof Sys2Proof.Machine

/-! ### Helpers -/

/-- The example configuration of 95_test_vectors.md §2. -/
def cfg : Config :=
  { Config.initial with
    keyTable :=
      [⟨0x01#8, 0x00001C#24, 0x00F01C#24⟩, ⟨0x02#8, 0x00E048#24, 0xE0F048#24⟩,
       ⟨0x03#8, 0x000058#24, 0x00F058#24⟩, ⟨0x04#8, 0x000077#24, 0x00F077#24⟩,
       ⟨0x05#8, 0x00007E#24, 0x00F07E#24⟩]
    keyCaps := 0x03#8, keyNum := 0x04#8, keyScroll := 0x05#8
    charMap := [⟨0x01#8, 0x61#8, 0x41#8⟩], isAlpha := [0x01#8] }

/-- A state with the example configuration and these elements. -/
def on (k : Block) : State := { State.reset with cfg := cfg, blk := k }

/-- The reset state under the example configuration, this input next. -/
def offered (i : Input) : State := { on Block.reset with inputs := [i] }

/-- A transaction that waits for a response. -/
def waiting (kind : TKind) (sub : AwaitSub) (dataV : Bool) : Block :=
  { Block.reset with seqPhase := .await, tKind := kind, awaitSub := sub, tDataV := dataV }

/-- About to send the byte b. -/
def inhibiting (b : Byte) : Block := Block.begin .generic b false 0#8 Block.reset

/-- Sending the byte b, frame bit n − 1 presented. -/
def transmitting (b : Byte) (n : BitVec 4) : Block :=
  { inhibiting b with
    clkDrv := false, bsMode := .transmitting, seqPhase := .sending, txIdx := n
    datDrv := !(encodeFrame b).getLsbD (n.toNat - 1) }

/-- Waiting for the acknowledgment bit. -/
def acking (b : Byte) : Block :=
  { inhibiting b with clkDrv := false, bsMode := .ack, seqPhase := .sending, txIdx := 11#4 }

/-- Gathering a frame: n bits so far, their levels in v. -/
def receiving (n : BitVec 4) (v : BitVec 11) (k : Block) : Block :=
  { k with bsMode := .receiving, rxIdx := n, rxShift := v }

/-- The scan buffer filled. -/
def buffered (n : BitVec 2) (acc : Code) (k : Block) : Block := { k with sbLen := n, sbAcc := acc }

/-- The result is a next state of which p holds. -/
def ends (r : Result) (p : State → Bool) : Bool :=
  match r with
  | .next s => p s
  | .fault _ | .refused _ => false

/-! ### WellFormed refuses -/

theorem test_example_config_well_formed : cfg.wf = true := by decide
theorem test_initial_config_well_formed : Config.initial.wf = true := by decide
theorem test_equal_response_codes_refused :
    { cfg with respReady := 0xFA#8 }.respDistinct = false ∧ { cfg with respReady := 0xFA#8 }.wf = false := by
  decide
theorem test_bounds_refused :
    { cfg with maxResend := 4 }.boundsFit = false ∧ { cfg with scanBufMax := 4 }.boundsFit = false ∧
      { cfg with scanBufMax := 0 }.boundsFit = false ∧ { cfg with maxResend := 4 }.wf = false := by decide
theorem test_codes_out_of_range_refused :
    { cfg with keyTable := [⟨1, 0, 0xF01C⟩] }.codesInRange = false ∧
      { cfg with scanBufMax := 2 }.codesInRange = false ∧ { cfg with scanBufMax := 2 }.wf = false := by decide
theorem test_equal_codes_refused :
    { cfg with keyTable := [⟨1, 0x1C, 0xF01C⟩, ⟨2, 0x1D, 0x1C⟩] }.codesDistinct = false ∧
      { cfg with keyTable := [⟨1, 0x1C, 0xF01C⟩, ⟨2, 0x1D, 0x1C⟩] }.wf = false := by decide
theorem test_equal_ids_refused :
    { cfg with keyTable := [⟨1, 0x1C, 0xF01C⟩, ⟨1, 0x1D, 0xF01D⟩] }.idsDistinct = false ∧
      { cfg with keyTable := [⟨1, 0x1C, 0xF01C⟩, ⟨1, 0x1D, 0xF01D⟩] }.wf = false := by decide
theorem test_leading_part_refused :
    { cfg with keyTable := [⟨1, 0xF0, 0xF11C⟩, ⟨2, 0x1D, 0xF01D⟩] }.prefixFree = false ∧
      { cfg with keyTable := [⟨1, 0xE0, 0xF11C⟩, ⟨2, 0x1D, 0xE0F01D⟩] }.prefixFree = false ∧
      { cfg with keyTable := [⟨1, 0xF0, 0xF11C⟩, ⟨2, 0x1D, 0xF01D⟩] }.wf = false := by decide
theorem test_equal_lock_ids_refused :
    { cfg with keyNum := 0x03#8 }.locksDistinct = false ∧ { cfg with keyNum := 0x03#8 }.wf = false := by decide

/-! ### Every row's word, bits written out from 30_encoding.md -/

theorem test_decode_transaction_requests :
    decodeReq 0b00000000_00000000_0000_0001#24 = .ok .kbReset ∧
    decodeReq 0b00000000_00000000_0000_0010#24 = .ok .kbEnable ∧
    decodeReq 0b00000000_00000000_0000_0011#24 = .ok .kbDisable ∧
    decodeReq 0b00000000_00000000_0000_0100#24 = .ok .kbDefaults ∧
    decodeReq 0b00000000_00000001_0000_0101#24 = .ok (.kbSetleds true false false) ∧
    decodeReq 0b00000000_00000110_0000_0101#24 = .ok (.kbSetleds false true true) ∧
    decodeReq 0b00000011_00011111_0000_0110#24 = .ok (.kbTypematic 0x1F#8 0x03#8) ∧
    decodeReq 0b00000000_00000000_0000_0111#24 = .ok .kbReadid ∧
    decodeReq 0b00000000_00000000_0000_1000#24 = .ok .kbResend :=
  ⟨rfl, rfl, rfl, rfl, rfl, rfl, rfl, rfl, rfl⟩
theorem test_decode_query_requests :
    decodeReq 0b00000000_00000000_0000_1001#24 = .ok .qLocks ∧
    decodeReq 0b00000000_00000000_0000_1010#24 = .ok .qResult ∧
    decodeReq 0b00000000_00000000_0000_1011#24 = .ok .qStatus ∧
    decodeReq 0b00000000_00000000_0000_1100#24 = .ok .qDev ∧
    decodeReq 0b00000000_00000000_0000_1101#24 = .ok .qDiag ∧
    decodeReq 0b00000000_11111111_0000_1110#24 = .ok (.qXlat 0xFF#8) :=
  ⟨rfl, rfl, rfl, rfl, rfl, rfl⟩
theorem test_decode_rejected_requests :
    decodeReq 0x000000#24 = .error .reservedOp ∧ decodeReq 0x00000F#24 = .error .reservedOp ∧
    decodeReq 0x000012#24 = .error .reservedField ∧ decodeReq 0x000102#24 = .error .operandBits ∧
    decodeReq 0x000805#24 = .error .operandBits ∧ decodeReq 0x01000E#24 = .error .operandBits :=
  ⟨rfl, rfl, rfl, rfl, rfl, rfl⟩
theorem test_decode_events_and_reset :
    decodeEvent 0b001#3 = .ok (.fall false) ∧ decodeEvent 0b101#3 = .ok (.fall true) ∧
    decodeEvent 0b010#3 = .ok .inhdone ∧ decodeEvent 0b011#3 = .ok .timeout ∧
    decodeEvent 0b110#3 = .error .reservedEvent ∧ decodeReset 1#1 = .ok .rst ∧
    decodeReset 0#1 = .error .noReset :=
  ⟨rfl, rfl, rfl, rfl, rfl, rfl, rfl⟩
theorem test_decode_command_bytes :
    decodeCommand cfg 0xFF#8 = .ok .cmdReset ∧ decodeCommand cfg 0xF4#8 = .ok .cmdEnable ∧
    decodeCommand cfg 0xF5#8 = .ok .cmdDisable ∧ decodeCommand cfg 0xF6#8 = .ok .cmdSetDefault ∧
    decodeCommand cfg 0xED#8 = .ok .cmdSetLeds ∧ decodeCommand cfg 0xF3#8 = .ok .cmdSetTypematic ∧
    decodeCommand cfg 0xF2#8 = .ok .cmdReadId ∧ decodeCommand cfg 0xFE#8 = .ok .cmdResend ∧
    decodeCommand cfg 0x00#8 = .error .notACommand :=
  ⟨rfl, rfl, rfl, rfl, rfl, rfl, rfl, rfl, rfl⟩
theorem test_decode_data_bytes :
    decodeLedData 0b00000_100#8 = .ok (.ledData true false false) ∧
    decodeLedData 0b00000_011#8 = .ok (.ledData false true true) ∧
    decodeLedData 0b00001_000#8 = .error .notLedData ∧
    decodeTypematicData 0b0_01_01011#8 = .ok (.typematicData 0x0B#5 1#2) ∧
    decodeTypematicData 0b0_11_11111#8 = .ok (.typematicData 0x1F#5 3#2) ∧
    decodeTypematicData 0b1_00_00000#8 = .error .notTypematicData :=
  ⟨rfl, rfl, rfl, rfl, rfl, rfl⟩
theorem test_decode_response_codes :
    decodeDeviceByte cfg 0xFA#8 = .ok .respAck ∧ decodeDeviceByte cfg 0xFE#8 = .ok .respResend ∧
    decodeDeviceByte cfg 0xAA#8 = .ok .respReady ∧
    decodeDeviceByte cfg 0x1C#8 = .error .notAResponseCode :=
  ⟨rfl, rfl, rfl, rfl⟩

/-! ### Single steps, results from 95_test_vectors.md -/

/-- §3.1 V1, some rows. -/
theorem test_frames :
    encodeFrame 0x01#8 = 0x402#11 ∧ encodeFrame 0x2B#8 = 0x656#11 ∧ encodeFrame 0xFA#8 = 0x7F4#11 ∧
    encodeFrame 0xFE#8 = 0x5FC#11 ∧
    wireBits (encodeFrame 0xF2#8)
      = [false, false, true, false, false, true, true, true, true, false, true] := by decide
/-- §3.1 V2. -/
theorem test_bad_frames :
    decodeFrame 0x7F5#11 = .byte 0xFA#8 ∧ decodeFrame 0x5F4#11 = .bad true false ∧
    decodeFrame 0x3F4#11 = .bad false true ∧ decodeFrame 0x1F4#11 = .bad true true ∧
    decodeFrame 0x000#11 = .bad true true ∧ decodeFrame 0x7FF#11 = .byte 0xFF#8 ∧
    decodeFrame 0x7F8#11 = .byte 0xFC#8 := by decide
/-- §3.2 V10, first row: TX_FRAME = 0x5E8, BS_MODE 2, CLK_DRV 1, SEQ_PHASE 1. -/
theorem test_enable_begins : ends (execKbEnable (on Block.reset)) (fun t =>
    t.blk.txFrame == 0x5E8#11 && t.blk.bsMode.num == 2#3 && t.blk.clkDrv && t.blk.seqPhase.num == 1#2) = true := by
  decide
/-- §3.2 V10, edge 9: the parity bit 0 of 0xF4 is presented, TX_IDX 10. -/
theorem test_parity_bit_presented : ends (execFall false (on (transmitting 0xF4#8 9#4))) (fun t =>
    t.blk.datDrv && t.blk.txIdx == 10#4 && t.blk.bsMode.num == 3#3) = true := by decide
/-- §3.2 V10, edge 11 with a bad acknowledgment: T_NACK 1, SEQ_PHASE 3. -/
theorem test_bad_ack : ends (execFall true (on (acking 0xF4#8))) (fun t =>
    t.blk.tNack && t.blk.seqPhase.num == 3#2 && t.blk.bsMode.num == 0#3) = true := by decide
/-- §3.2 V11, edge 2: RX_IDX 3, RX_SHIFT 0x004. -/
theorem test_edge_received : ends (execFall true (on (receiving 2#4 0x000#11 Block.reset))) (fun t =>
    t.blk.rxIdx == 3#4 && t.blk.rxShift == 0x004#11) = true := by decide
/-- §3.2 V11, edge 10: the byte 0xFA reaches the scan decoder. -/
theorem test_frame_completed : ends (execFall true (on (receiving 10#4 0x3F4#11 Block.reset))) (fun t =>
    t.blk.bsMode.num == 0#3 && t.blk.sbLen == 1#2 && t.blk.sbAcc == 0xFA#24 && t.out == []) = true := by
  decide
/-- §3.2 V12: a partial inbound frame is dropped by KB.ENABLE. -/
theorem test_partial_frame_dropped : ends (execKbEnable (on (receiving 4#4 0x00C#11 Block.reset))) (fun t =>
    t.blk.rxIdx == 0#4 && t.blk.rxShift == 0#11 && t.blk.bsMode.num == 2#3 && t.blk.perrCnt == 0#8) = true := by
  decide
/-- §3.2 V12: TIMEOUT in a transmit. -/
theorem test_timeout_releases_lines : ends (execTimeout (on (transmitting 0xF4#8 4#4))) (fun t =>
    !t.blk.clkDrv && !t.blk.datDrv && t.blk.bsMode.num == 0#3 && t.out == [.done 0x00000006#32]) = true := by
  decide
/-- §3.2 V12: TIMEOUT keeps a partly received response. -/
theorem test_timeout_keeps_partial_frame :
    ends (execTimeout (on (receiving 6#4 0#11 (waiting .generic .awAck false)))) (fun t =>
      t.blk.rxIdx == 6#4 && t.out == [.done 0x00000006#32]) = true := by decide
/-- §3.3 V20: FA ends a generic command. -/
theorem test_ack_ends_generic : ends (execRespAck (on (waiting .generic .awAck false))) (fun t =>
    t.out == [.done 0x00000001#32] && t.blk.result == 0x00000001#32) = true := by decide
/-- §3.3 V24: a bare AA is READY. -/
theorem test_bare_ready : ends (execRespReady (on (waiting .reset .awAck false))) (fun t =>
    t.out == [.done 0x00000002#32]) = true := by decide
/-- §3.3 V27: a second FA while the ready byte is awaited. -/
theorem test_ack_instead_of_ready : ends (execRespAck (on (waiting .reset .awReady false))) (fun t =>
    t.out == [.done 0x0000FA04#32]) = true := by decide
/-- §3.3 V29: FE as the second ID byte. -/
theorem test_id_byte_is_not_a_code :
    ends (execRespResend (on { waiting .readId .awId1 false with tIdlo := 0xFA#8 })) (fun t =>
      t.out == [.done 0xFEFA0003#32] && t.blk.devId == 0xFEFA#16) = true := by decide
/-- §3.3 V31, V32: the first FE retransmits, the second one gives up. -/
theorem test_resend : ends (execRespResend (on { waiting .generic .awAck false with tLast := 0xF4#8 })) (fun t =>
    t.blk.txFrame == 0x5E8#11 && t.blk.tResends == 1#2 && t.out == []) = true := by decide
theorem test_resend_limit : ends (execRespResend (on { waiting .generic .awAck false with tResends := 1#2 }))
    (fun t => t.out == [.done 0x0000FE05#32]) = true := by decide
/-- §3.3 V33: KB.SETLEDS 1,0,0 sends ED, then 04. -/
theorem test_setleds : ends (execKbSetleds true false false (on Block.reset)) (fun t =>
    t.blk.tLast == 0xED#8 && t.blk.tData == 0x04#8 && t.blk.ledCaps && !t.blk.ledNum) = true := by decide
/-- §3.3 V34, V35: out-of-range operands are replaced, the maxima are kept. -/
theorem test_typematic_default : ends (execKbTypematic 0x20#8 0x04#8 (on Block.reset)) (fun t =>
    t.blk.tData == 0x2B#8 && t.blk.tmRate == 0x0B#5 && t.blk.tmDelay == 1#2) = true := by decide
theorem test_typematic_maximum : ends (execKbTypematic 0x1F#8 0x03#8 (on Block.reset)) (fun t =>
    t.blk.tData == 0x7F#8 && ends (execQDev t) (fun u => u.out == [.resp 0x0000077F#32])) = true := by decide
/-- §3.3 V41: a bad acknowledgment shows in the result. -/
theorem test_nack_in_result : ends (execRespAck (on { waiting .generic .awAck false with tNack := true }))
    (fun t => t.out == [.done 0x00000011#32]) = true := by decide
/-- §3.3 V44: a second transaction request is held. -/
theorem test_hold : ends (execKbEnable (on (inhibiting 0xF2#8))) (fun t =>
    t.held == [0x000002#24] && t.blk == inhibiting 0xF2#8) = true := by decide
/-- A request waiting behind the held one and offered again is one more request (the model's choice, log entry 27). -/
theorem test_waiting_request_offered_again :
    ends (execKbEnable { on Block.reset with held := [0x000001#24, 0x000002#24] }) (fun t =>
      t.held == [0x000001#24, 0x000002#24, 0x000002#24] && t.blk == Block.reset) = true := by decide
/-- TXCYCLE (30_encoding.md R141) of the command byte F4: the block then awaits the response. -/
theorem test_command_byte_sent : ends (execCmdEnable (on (inhibiting 0xF4#8))) (fun t =>
    t.blk.seqPhase.num == 3#2 && t.blk.bsMode.num == 0#3 && !t.blk.clkDrv && !t.blk.tNack) = true := by decide
/-- §1 S7: E0 48 is the up-arrow, in two bytes. -/
theorem test_up_arrow : ends (deviceByte 0x48#8 (on (buffered 1#2 0xE0#24 Block.reset))) (fun t =>
    t.out == [.key 0x02#8 true] && t.blk.sbLen == 0#2 && t.blk.sbAcc == 0#24) = true := by decide
/-- §1 S6: caps-lock toggles on the press and not on the release. -/
theorem test_caps_press : ends (deviceByte 0x58#8 (on Block.reset)) (fun t =>
    t.blk.ledCaps && !t.blk.relCaps && t.out == []) = true := by decide
theorem test_caps_release :
    ends (deviceByte 0x58#8 (on { buffered 1#2 0xF0#24 Block.reset with ledCaps := true, relCaps := false }))
      (fun t => t.blk.ledCaps && t.blk.relCaps && t.out == []) = true := by decide
/-- §1 S8: upper case exactly while LED_CAPS is 1. -/
theorem test_xlat :
    ends (execQXlat 0x01#8 (on Block.reset)) (fun t => t.out == [.resp 0x00000161#32]) = true ∧
    ends (execQXlat 0x01#8 (on { Block.reset with ledCaps := true }))
      (fun t => t.out == [.resp 0x00000141#32]) = true ∧
    ends (execQXlat 0x02#8 (on Block.reset)) (fun t => t.out == [.resp 0x00000000#32]) = true := by decide
/-- 43_scan_decoder.md R266: the third unmatched byte clears the buffer. -/
theorem test_desync : ends (deviceByte 0x00#8 (on (buffered 2#2 0xE0F0#24 Block.reset))) (fun t =>
    t.blk.desyncCnt == 1#8 && t.blk.sbLen == 0#2 && t.out == []) = true := by decide
/-- The interface runs the reset request first: 0x000001 is offered and accepted. -/
theorem test_fetch_word : ends (step (State.reset.withFetchWord 24 0x000001)) (fun t =>
    t.blk.tLast == 0xFF#8 && t.inputs == []) = true := by decide

/-! ### For every statement with hypotheses, states that meet them, clause by clause -/

theorem witness_RequestDecodingFollowsTheMap :
    decodeReq 0x040206#24 = .ok (.kbTypematic 0x02#8 0x04#8) ∧
    (∃ r ∈ requestRows, 0x040206#24 &&& r.mask = r.pattern) := ⟨rfl, by decide⟩
theorem witness_DecodeOfEncodeIsTheInstruction :
    cfg.respDistinct = true ∧ cfg.commandsDistinct = true := by decide
theorem witness_EncodeOfDecodeIsTheInput :
    decode cfg (.req 0x000705#24) = .ok (.kbSetleds true true true) ∧
    decode cfg (.hostTypematicData 0x7F#8) = .ok (.typematicData 0x1F#5 3#2) := ⟨rfl, rfl⟩
theorem witness_FramerDetectsSingleErrors : (1 ≤ 1 ∧ 1 ≤ 9 ∧ 1 ≠ 9) := by decide
theorem witness_EdgeStoresTheReceivedBit :
    ((on Block.reset).blk.bsMode = .idle ∧ (on Block.reset).blk.rxIdx.toNat < 10) ∧
    ((on (receiving 9#4 0x1FF#11 Block.reset)).blk.bsMode = .receiving ∧
      (on (receiving 9#4 0x1FF#11 Block.reset)).blk.rxIdx.toNat < 10) := by decide
theorem witness_LastEdgeDeliversOrCounts :
    (receiving 10#4 0x3F4#11 Block.reset).bsMode = .receiving ∧
    (receiving 10#4 0x3F4#11 Block.reset).rxIdx = 10#4 ∧
    decodeFrame (0x3F4#11 ||| 0x400#11) = .byte 0xFA#8 ∧ decodeFrame (0x3F4#11 ||| 0#11) = .bad false true := by
  decide
theorem witness_StrayEdgesAndTimersChangeNothing :
    (on (inhibiting 0xF4#8)).blk.bsMode = .inhibit ∧ (on Block.reset).blk.bsMode ≠ .inhibit := by decide
theorem witness_InhibitDonePutsOutTheStartBit : (on (inhibiting 0xF4#8)).blk.bsMode = .inhibit := by decide
theorem witness_TransmitEdgesPresentBitsThenSampleAck :
    ((transmitting 0xF4#8 1#4).bsMode = .transmitting ∧ 1 ≤ (transmitting 0xF4#8 1#4).txIdx.toNat ∧
      (transmitting 0xF4#8 1#4).txIdx.toNat ≤ 9) ∧
    (1 ≤ (transmitting 0xF4#8 9#4).txIdx.toNat ∧ (transmitting 0xF4#8 9#4).txIdx.toNat ≤ 9) ∧
    ((transmitting 0xF4#8 10#4).bsMode = .transmitting ∧ (transmitting 0xF4#8 10#4).txIdx = 10#4) ∧
    ((acking 0xF4#8).bsMode = .ack ∧ (acking 0xF4#8).txIdx = 11#4) := by decide
theorem witness_HostFrameBitsAppearInOrder :
    (on (inhibiting 0xF4#8)).blk.bsMode = .inhibit ∧
    (on (inhibiting 0xF4#8)).blk.txFrame = encodeFrame 0xF4#8 ∧
    ([] : List Bool).length ≤ 10 ∧ (List.replicate 10 true).length ≤ 10 := by decide
theorem witness_HostBytesCrossTheWire :
    encode cfg .cmdEnable = .hostCommand 0xF4#8 ∧ encode cfg (.ledData true false false) = .hostLedData 0x04#8 ∧
    encode cfg (.typematicData 0x0B#5 1#2) = .hostTypematicData 0x2B#8 ∧
    (on (inhibiting 0xF4#8)).blk.bsMode = .inhibit ∧
    (on (inhibiting 0x04#8)).blk.txFrame = encodeFrame 0x04#8 ∧
    (on (inhibiting 0x2B#8)).blk.txFrame = encodeFrame 0x2B#8 ∧
    ¬((on Block.reset).blk.bsMode = .inhibit ∧ (on Block.reset).blk.txFrame = encodeFrame 0xF4#8) := by decide
theorem witness_ElevenEdgesDeliverTheFrame :
    betweenFrames (on Block.reset) = true ∧ decodeFrame 0x7F4#11 = .byte 0xFA#8 ∧
    decodeFrame 0x1F4#11 = .bad true true := by decide
theorem witness_DeviceByteIsItsElevenSteps :
    runnable (offered (.deviceByte 0xFA#8)) = true ∧
    (offered (.deviceByte 0xFA#8)).inputs = .deviceByte 0xFA#8 :: [] := by decide
theorem witness_HostByteIsItsTwelveSteps :
    runnable { on (inhibiting 0xF4#8) with inputs := [.hostCommand 0xF4#8] } = true ∧
    (on (inhibiting 0xF4#8)).blk.bsMode = .inhibit ∧
    (on (inhibiting 0xF4#8)).blk.txFrame = encodeFrame 0xF4#8 := by decide
theorem witness_DrivenDataLevelIsNotRead :
    (transmitting 0xF4#8 1#4).inv = true ∧ (transmitting 0xF4#8 1#4).datDrv = true := by decide
theorem witness_LineLevelsFollowTheMode :
    (good (on Block.reset) = true ∧ Block.reset.hostDrives = false) ∧
    (good (on (acking 0xF4#8)) = true ∧ (acking 0xF4#8).hostDrives = false) ∧
    (good (on (inhibiting 0xF4#8)) = true ∧ (inhibiting 0xF4#8).bsMode = .inhibit) ∧
    (good (on (transmitting 0xF4#8 10#4)) = true ∧ (transmitting 0xF4#8 10#4).bsMode = .transmitting) := by
  decide
theorem witness_PlainCommandsAreAccepted :
    (on Block.reset).blk.seqPhase = .idle ∧ portOffers 0x000001#24 (on Block.reset) = true ∧
    portOffers 0x000002#24 (on Block.reset) = true ∧ portOffers 0x000003#24 (on Block.reset) = true ∧
    portOffers 0x000004#24 (on Block.reset) = true ∧ portOffers 0x000007#24 (on Block.reset) = true ∧
    portOffers 0x000008#24 { on Block.reset with held := [0x000008#24] } = true := by decide
theorem witness_SetledsWritesLedsAtAcceptance :
    (on Block.reset).blk.seqPhase = .idle ∧ portOffers 0x000705#24 (on Block.reset) = true ∧
    portOffers 0x000705#24 { on Block.reset with held := [0x000705#24] } = true := by decide
theorem witness_TypematicSubstitutesAndWrites :
    (on Block.reset).blk.seqPhase = .idle ∧ portOffers 0x042006#24 (on Block.reset) = true ∧
    (0x1F = if (0x1F#8).toNat ≤ 0x1F then (0x1F#8).toNat else 0x0B) ∧
    (0x0B = if (0x20#8).toNat ≤ 0x1F then (0x20#8).toNat else 0x0B) ∧
    (3 = if (0x03#8).toNat ≤ 3 then (0x03#8).toNat else 1) ∧
    (1 = if (0x04#8).toNat ≤ 3 then (0x04#8).toNat else 1) := by decide
theorem witness_BusyTransactionsAreHeld :
    Instr.isTransaction .kbEnable = true ∧ encode cfg .kbEnable = .req 0x000002#24 ∧
    (on (inhibiting 0xF2#8)).blk.seqPhase ≠ .idle ∧ (on (inhibiting 0xF2#8)).held = [] ∧
    { on (inhibiting 0xF2#8) with held := [0x000002#24] }.held = 0x000002#24 :: [] ∧
    { on (inhibiting 0xF2#8) with held := [0x000001#24] }.held = 0x000001#24 :: [] ∧
    0x000001#24 ≠ 0x000002#24 := by decide
theorem witness_AckAdvancesTheTransaction :
    (Expect.waits .awAck (on (waiting .generic .awAck false)) = true) ∧
    (Expect.waits .awAck (on (waiting .twoPhase .awAck false)) = true) ∧
    (Expect.waits .awAck (on (waiting .twoPhase .awAck true)) = true) ∧
    (Expect.waits .awAck (on (waiting .reset .awAck false)) = true) ∧
    (Expect.waits .awAck (on (waiting .readId .awAck false)) = true) := by decide
theorem witness_ResendRetransmitsThenGivesUp :
    Expect.waits .awAck (on (waiting .generic .awAck false)) = true ∧ cfg.respDistinct = true ∧
    (on (waiting .generic .awAck false)).blk.tResends.toNat < cfg.maxResend ∧
    Expect.waits .awAck (on { waiting .generic .awAck false with tResends := 1#2 }) = true ∧
    cfg.maxResend ≤ (on { waiting .generic .awAck false with tResends := 1#2 }).blk.tResends.toNat := by decide
theorem witness_ReadyEndsAReset :
    cfg.respDistinct = true ∧ Expect.waits .awReady (on (waiting .reset .awReady false)) = true ∧
    (Expect.waits .awAck (on (waiting .reset .awAck false)) = true ∧ (waiting .reset .awAck false).tKind = .reset) ∧
    (Expect.waits .awAck (on (waiting .generic .awAck false)) = true ∧
      (waiting .generic .awAck false).tKind ≠ .reset) := by decide
theorem witness_UnexpectedResponsesAreProtocolErrors :
    runnable { on (waiting .generic .awAck false) with inputs := [.deviceByte 0xAA#8] } = true ∧
    (Expect.waits .awAck (on (waiting .generic .awAck false)) = true ∧ 0xAA#8 ≠ cfg.respAck ∧
      0xAA#8 ≠ cfg.respResend ∧
      ¬(0xAA#8 = cfg.respReady ∧ (waiting .generic .awAck false).tKind = .reset)) ∧
    runnable { on (waiting .reset .awReady false) with inputs := [.deviceByte 0xFC#8] } = true ∧
    (Expect.waits .awReady (on (waiting .reset .awReady false)) = true ∧ 0xFC#8 ≠ cfg.respReady) := by decide
theorem witness_IdBytesAreCapturedLowFirst :
    runnable { on (waiting .readId .awId0 false) with inputs := [.deviceByte 0xAB#8] } = true ∧
    Expect.waits .awId0 (on (waiting .readId .awId0 false)) = true ∧
    runnable { on (waiting .readId .awId1 false) with inputs := [.deviceByte 0x83#8] } = true ∧
    Expect.waits .awId1 (on (waiting .readId .awId1 false)) = true := by decide
theorem witness_TimeoutEndsTheTransaction :
    (on Block.reset).blk.seqPhase = .idle ∧
    ((waiting .generic .awAck false).seqPhase ≠ .idle ∧ (waiting .generic .awAck false).bsMode = .idle) ∧
    ((transmitting 0xF4#8 4#4).seqPhase ≠ .idle ∧ (transmitting 0xF4#8 4#4).bsMode ≠ .idle ∧
      (transmitting 0xF4#8 4#4).bsMode ≠ .receiving) := by decide
theorem witness_TransactionPathsReachTheirResults :
    (on Block.reset).blk.seqPhase = .idle ∧ (on Block.reset).held = [] ∧ cfg.ackLevel = false ∧
    (Instr.kbResend, Instr.cmdResend) ∈ [(Instr.kbEnable, Instr.cmdEnable),
      (.kbDisable, .cmdDisable), (.kbDefaults, .cmdSetDefault), (.kbResend, .cmdResend)] := by decide
theorem witness_CompletedCodesEmitKeyEvents :
    Expect.scans 0x1C#8 [] (offered (.deviceByte 0x1C#8)) = true ∧
    Expect.notLock cfg 0x01#8 = true ∧
    (⟨0x01#8, 0x00001C#24, 0x00F01C#24⟩ : KeyEntry) ∈ cfg.keyTable ∧
    0x00001C#24 = Expect.acc 0x1C#8 (offered (.deviceByte 0x1C#8)) ∧
    Expect.scans 0x1C#8 [] { on (buffered 1#2 0xF0#24 Block.reset) with inputs := [.deviceByte 0x1C#8] } = true ∧
    0x00F01C#24 = Expect.acc 0x1C#8 (on (buffered 1#2 0xF0#24 Block.reset)) ∧
    Expect.scans 0x48#8 [] { on (buffered 2#2 0xE0F0#24 Block.reset) with inputs := [.deviceByte 0x48#8] } = true ∧
    0xE0F048#24 = Expect.acc 0x48#8 (on (buffered 2#2 0xE0F0#24 Block.reset)) := by decide
theorem witness_LockKeysToggleOnThePressEdge :
    Expect.scans 0x58#8 [] (offered (.deviceByte 0x58#8)) = true ∧
    (⟨0x03#8, 0x000058#24, 0x00F058#24⟩ : KeyEntry) ∈ cfg.keyTable ∧
    0x000058#24 = Expect.acc 0x58#8 (on Block.reset) ∧ 0x03#8 = cfg.keyCaps ∧
    (⟨0x04#8, 0x000077#24, 0x00F077#24⟩ : KeyEntry) ∈ cfg.keyTable ∧
    0x000077#24 = Expect.acc 0x77#8 (on Block.reset) ∧ 0x04#8 = cfg.keyNum ∧
    (⟨0x05#8, 0x00007E#24, 0x00F07E#24⟩ : KeyEntry) ∈ cfg.keyTable ∧
    0x00007E#24 = Expect.acc 0x7E#8 (on Block.reset) ∧ 0x05#8 = cfg.keyScroll ∧
    Expect.scans 0x58#8 [] { on (buffered 1#2 0xF0#24 Block.reset) with inputs := [.deviceByte 0x58#8] } = true ∧
    0x00F058#24 = Expect.acc 0x58#8 (on (buffered 1#2 0xF0#24 Block.reset)) ∧
    0x00F077#24 = Expect.acc 0x77#8 (on (buffered 1#2 0xF0#24 Block.reset)) ∧
    0x00F07E#24 = Expect.acc 0x7E#8 (on (buffered 1#2 0xF0#24 Block.reset)) := by decide
theorem witness_UnmatchedBytesExtendOrDesync :
    Expect.scans 0x00#8 [] (offered (.deviceByte 0x00#8)) = true ∧
    (∀ e ∈ cfg.keyTable, e.make ≠ Expect.acc 0x00#8 (on Block.reset) ∧
      e.brk ≠ Expect.acc 0x00#8 (on Block.reset)) ∧
    (on (buffered 1#2 0xE0#24 Block.reset)).blk.sbLen.toNat + 1 < cfg.scanBufMax ∧
    cfg.scanBufMax ≤ (on (buffered 2#2 0xE0F0#24 Block.reset)).blk.sbLen.toNat + 1 ∧
    (∀ e ∈ cfg.keyTable, e.make ≠ Expect.acc 0x00#8 (on (buffered 2#2 0xE0F0#24 Block.reset)) ∧
      e.brk ≠ Expect.acc 0x00#8 (on (buffered 2#2 0xE0F0#24 Block.reset))) := by decide
theorem witness_XlatFoldsCaseForAlphabeticKeys :
    (∀ e ∈ cfg.charMap, e.id ≠ 0x02#8) ∧ cfg.charMap = [] ++ ⟨0x01#8, 0x61#8, 0x41#8⟩ :: [] ∧
    (∀ x ∈ ([] : List CharEntry), x.id ≠ 0x01#8) := by decide
theorem witness_QueriesOnlyAnswer : (Instr.qXlat 0xFF#8).isQuery = true ∧ Instr.qLocks.isQuery = true := by decide
theorem witness_RejectedRequestsAnswerSeven :
    runnable (offered (.req 0x00000F#24)) = true ∧
    (∀ r ∈ requestRows, 0x00000F#24 &&& r.mask ≠ r.pattern) ∧
    (∀ r ∈ requestRows, 0x000805#24 &&& r.mask ≠ r.pattern) := by decide
theorem witness_StepRunsTheDecodedInput :
    runnable (offered (.reset 1#1)) = true ∧ (offered (.reset 1#1)).inputs = .reset 1#1 :: [] ∧
    decode cfg (.reset 1#1) = .ok .rst := ⟨by decide, rfl, rfl⟩
theorem witness_StepStopsWhereTheSpecSays :
    { cfg with keyNum := 0x03#8 }.wf = false ∧ cfg.wf = true ∧
    { Block.reset with seqPhase := .sending }.inv = false ∧
    { Block.reset with bsMode := .receiving, rxIdx := 11#4 }.inv = false ∧
    (runnable (on Block.reset) = true ∧ (on Block.reset).inputs = []) ∧
    (runnable (offered (.event 0#3)) = true ∧ (offered (.event 0#3)).inputs = .event 0#3 :: []) ∧
    (runnable (offered (.reset 0#1)) = true ∧ (offered (.reset 0#1)).inputs = .reset 0#1 :: []) ∧
    (runnable (offered (.event 4#3)) = true ∧ (offered (.event 4#3)).inputs = .event 4#3 :: []) ∧
    (runnable (offered (.event 7#3)) = true ∧ (offered (.event 7#3)).inputs = .event 7#3 :: []) := by decide
theorem witness_FetchedTableWordRuns :
    decodeTableWord 24 0x00000E = some (.qXlat 0x00#8) ∧ decodeTableWord 8 0xFA = some .respAck := ⟨rfl, rfl⟩
theorem witness_EveryStepKeepsTheInvariants : ∃ t, step (offered (.req 0x000001#24)) = .next t := ⟨_, rfl⟩
theorem witness_EveryInstructionAnswers :
    runnable (on Block.reset) = true ∧ runnable (on (transmitting 0xF4#8 10#4)) = true := by decide
theorem witness_OnlyRefusedInputsStopTheMachine :
    runnable (offered (.deviceByte 0x00#8)) = true ∧
    (∀ i ∈ (offered (.deviceByte 0x00#8)).inputs.head?, refusedInput i = false) := by
  refine ⟨by decide, ?_⟩
  intro i hi
  cases hi
  rfl
theorem witness_EveryStepKeepsGoodStates :
    good { on (transmitting 0xF4#8 10#4) with inputs := [.event 1#3] } = true ∧
    (∃ t, step { on (transmitting 0xF4#8 10#4) with inputs := [.event 1#3] } = .next t) := ⟨by decide, _, rfl⟩
theorem witness_StepsEmitAtMostOneItem : ∃ t, step (offered (.req 0x000009#24)) = .next t := ⟨_, rfl⟩
theorem witness_OneTransactionAtATime :
    (∃ t, step (offered (.req 0x000002#24)) = .next t ∧ (offered (.req 0x000002#24)).blk.seqPhase = .idle ∧
      t.blk.seqPhase ≠ .idle) ∧
    (∃ t, step { on (waiting .generic .awAck false) with inputs := [.event 3#3] } = .next t ∧
      (waiting .generic .awAck false).seqPhase ≠ .idle ∧ t.blk.seqPhase = .idle) :=
  ⟨⟨_, rfl, by decide⟩, ⟨_, rfl, by decide⟩⟩
theorem witness_DoneCarriesTheResult :
    ∃ t, step { on (waiting .generic .awAck false) with inputs := [.event 3#3] } = .next t ∧
      t.out = [] ++ [.done 0x00000006#32] ∧ t.blk.result ≠ (waiting .generic .awAck false).result :=
  ⟨_, rfl, by decide⟩
theorem witness_DeviceStateHasFewWriters :
    (ends (exec .respAck (on (waiting .readId .awId1 false))) (fun t =>
      t.blk.devId != (waiting .readId .awId1 false).devId) = true ∧
    Instr.respAck ≠ .rst ∧ (∀ r d, Instr.respAck ≠ .kbTypematic r d)) ∧
    ends (step (offered (.req 0x031F06#24))) (fun t => t.blk.tmRate != Block.reset.tmRate) = true ∧
    ends (step { on (waiting .readId .awId1 false) with inputs := [.deviceByte 0x83#8] }) (fun t =>
      t.blk.devId != (waiting .readId .awId1 false).devId) = true := by
  refine ⟨⟨by decide, by decide, ?_⟩, by decide, by decide⟩
  intro r d h
  cases h
theorem witness_LedBitsChangeOnlyByRequestOrDecoder :
    (ends (exec (.fall true) (on (receiving 10#4 0x0B0#11 Block.reset))) (fun t =>
      t.blk.ledCaps != (receiving 10#4 0x0B0#11 Block.reset).ledCaps) = true ∧
    Instr.fall true ≠ .rst ∧ (∀ x y z, Instr.fall true ≠ .kbSetleds x y z)) ∧
    ends (step (offered (.deviceByte 0x58#8))) (fun t => t.blk.ledCaps != Block.reset.ledCaps) = true ∧
    ends (step (offered (.req 0x000105#24))) (fun t => t.blk.ledCaps != Block.reset.ledCaps) = true := by
  refine ⟨⟨by decide, by decide, ?_⟩, by decide, by decide⟩
  intro x y z h
  cases h
theorem witness_RstAbandonsSilentlyAndKeepsTheHeldRequest :
    (Instr.isTransaction .kbEnable = true ∧ encode cfg .kbEnable = .req 0x000002#24 ∧
      { on (inhibiting 0xF2#8) with held := [0x000002#24] }.held = 0x000002#24 :: []) ∧
    (Instr.isTransaction (.kbTypematic 0x20#8 0x04#8) = true ∧
      encode cfg (.kbTypematic 0x20#8 0x04#8) = .req 0x042006#24 ∧
      { on (inhibiting 0xF2#8) with held := [0x042006#24, 0x000001#24] }.held
        = 0x042006#24 :: [0x000001#24]) := by decide
theorem witness_RequestsWaitBehindTheHeldOne :
    Instr.isTransaction .kbEnable = true ∧ encode cfg .kbEnable = .req 0x000002#24 ∧
    (on Block.reset).blk.seqPhase = .idle ∧ 0x000001#24 ≠ 0x000002#24 ∧
    { on Block.reset with held := [0x000001#24] }.held = 0x000001#24 :: [] ∧
    { on Block.reset with held := [0x000001#24, 0x000002#24] }.held = 0x000001#24 :: [0x000002#24] := by
  decide
theorem witness_HostBytesOffTheWireChangeNothing :
    (runnable (offered (.hostCommand 0x00#8)) = true ∧
      ¬((on Block.reset).blk.bsMode = .inhibit ∧ (on Block.reset).blk.txFrame = encodeFrame 0x00#8)) ∧
    (runnable { on (inhibiting 0xF4#8) with inputs := [.hostLedData 0x08#8] } = true ∧
      ¬((on (inhibiting 0xF4#8)).blk.bsMode = .inhibit ∧
        (on (inhibiting 0xF4#8)).blk.txFrame = encodeFrame 0x08#8)) ∧
    runnable (offered (.hostTypematicData 0x80#8)) = true := by decide

end Sys2Proof.Tests
end

/-! SUPPORT. Progress (00_scope.md R16): the outcomes in which the machine runs on, one rule per shared operation, every row of the opcode table, and a whole step. -/

namespace Sys2Proof.Machine

/-! ### States in which the machine runs -/

/-- The machine runs where its configuration is well formed and its block satisfies R54. -/
theorem runnable_iff_Inv (s : State) : runnable s = true ↔ s.cfg.wf = true ∧ s.blk.Inv := by
  rw [runnable_iff, inv_iff_Inv]

theorem Inv_of_runnable {s : State} (h : runnable s = true) : s.blk.Inv :=
  ((runnable_iff_Inv s).1 h).2

theorem reset_Inv : Block.reset.Inv := (inv_iff_Inv _).1 (by decide)

/-- The reset state runs: its configuration is well formed and its block satisfies R54. -/
theorem runnable_reset : runnable State.reset = true := by decide

theorem runnable_withBlk {s : State} {k : Block} (h : runnable s = true) (hk : k.Inv) :
    runnable (s.withBlk k) = true :=
  runnable_congr (s := s) (t := s.withBlk k) rfl ((inv_iff_Inv k).2 hk) h

@[simp] theorem runnable_emit (s : State) (o : Output) : runnable (s.emit o) = runnable s := rfl
@[simp] theorem runnable_withHeld (s : State) (h : List ReqWord) :
    runnable (s.withHeld h) = runnable s := rfl
@[simp] theorem runnable_withInputs (s : State) (is : List Input) :
    runnable (s.withInputs is) = runnable s := rfl

theorem runnable_inhibitDone {s : State} (h : runnable s = true) :
    runnable (inhibitDone s) = true := by
  unfold inhibitDone
  split
  next hm => exact runnable_withBlk h (startFrame_Inv (Inv_of_runnable h) hm)
  next => exact h

theorem runnable_onTimeout {s : State} (h : runnable s = true) : runnable (onTimeout s) = true := by
  unfold onTimeout
  split
  next => exact h
  next => exact runnable_withBlk (s := s) h (bsAbort_finish_Inv _ (Inv_of_runnable h))

theorem runnable_resetBlock {s : State} (h : runnable s = true) : runnable (resetBlock s) = true :=
  runnable_withBlk h reset_Inv

theorem runnable_begin {kind : TKind} {dataV : Bool} {s : State} (cmd data : Byte) (k : Block)
    (h : runnable s = true) (hv : dataV = true → kind = .twoPhase) :
    runnable (s.withBlk (k.begin kind cmd dataV data)) = true :=
  runnable_withBlk h (begin_Inv cmd data k hv)

/-! ### Outcomes in which the machine runs on -/

/-- The outcome is a next state, and the machine runs in it. -/
def RunsOn (r : Result) : Prop := ∃ t, r = .next t ∧ runnable t = true

theorem runsOn_next {t : State} (h : runnable t = true) : RunsOn (.next t) := ⟨t, rfl, h⟩

theorem RunsOn.andThen {r : Result} {f : State → Result} (hr : RunsOn r)
    (hf : ∀ t, runnable t = true → RunsOn (f t)) : RunsOn (andThen r f) := by
  obtain ⟨t, rfl, ht⟩ := hr
  exact hf t ht

theorem edge_runsOn (d : Bool) {s : State} (h : runnable s = true) : RunsOn (edge d s) := by
  have hk := Inv_of_runnable h
  obtain ⟨t, ht⟩ := edge_next d hk
  obtain ⟨hcfg, -, -⟩ := edge_frame ht
  exact ⟨t, ht, runnable_congr hcfg ((inv_iff_Inv _).2 (edge_Inv hk ht)) h⟩

theorem edges_runsOn (ds : List Bool) {s : State} (h : runnable s = true) :
    RunsOn (edges ds s) := by
  induction ds generalizing s with
  | nil => exact runsOn_next h
  | cons d ds ih => exact (edge_runsOn d h).andThen fun _ => ih

theorem deviceByte_runsOn (b : Byte) {s : State} (h : runnable s = true) :
    RunsOn (deviceByte b s) := edges_runsOn _ h

theorem hostByte_runsOn (b : Byte) {s : State} (h : runnable s = true) :
    RunsOn (hostByte b s) := by
  unfold hostByte
  split
  next => exact edges_runsOn _ (runnable_inhibitDone h)
  next => exact runsOn_next h

theorem respond_runsOn (w : RespWord) {s : State} (h : runnable s = true) :
    RunsOn (respond w s) := runsOn_next h

/-- An offered request is held, or it is accepted: the machine runs on if it does after the acceptance. -/
theorem offer_runsOn (w : ReqWord) {f : State → State} {s : State} (h : runnable s = true)
    (hf : ∀ t, runnable t = true → runnable (f t) = true) : RunsOn (offer w f s) := by
  obtain ⟨-, -, ho⟩ | ⟨held, ho⟩ := offer_cases w f s <;> rw [ho]
  · exact runsOn_next (hf _ h)
  · exact runsOn_next h

/-! ### Every row of the opcode table -/

/-- A transaction request begins its transaction or is held (42_sequencer.md R200 to R209). -/
theorem exec_transaction_runsOn {i : Instr} {s : State} (hi : i.isTransaction = true)
    (h : runnable s = true) : RunsOn (exec i s) := by
  cases i with
  | kbReset | kbEnable | kbDisable | kbDefaults | kbSetleds | kbTypematic | kbReadid | kbResend =>
    simp only [exec, execKbReset, execKbEnable, execKbDisable, execKbDefaults, execKbSetleds,
      execKbTypematic, execKbReadid, execKbResend]
    exact offer_runsOn _ h fun _ ht => runnable_begin _ _ _ ht (by simp)
  | _ => cases hi

/-- A query answers, and nothing else changes (44_queries.md R290). -/
theorem exec_query_runsOn {i : Instr} {s : State} (hi : i.isQuery = true)
    (h : runnable s = true) : RunsOn (exec i s) := by
  cases i with
  | qLocks | qResult | qStatus | qDev | qDiag | qXlat => exact respond_runsOn _ h
  | _ => cases hi

theorem exec_runsOn (i : Instr) {s : State} (h : runnable s = true) : RunsOn (exec i s) := by
  cases i with
  | kbReset | kbEnable | kbDisable | kbDefaults | kbSetleds | kbTypematic | kbReadid | kbResend =>
    exact exec_transaction_runsOn rfl h
  | qLocks | qResult | qStatus | qDev | qDiag | qXlat => exact exec_query_runsOn rfl h
  | fall d => exact edge_runsOn d h
  | inhdone => exact runsOn_next (runnable_inhibitDone h)
  | timeout => exact runsOn_next (runnable_onTimeout h)
  | rst => exact runsOn_next (runnable_resetBlock h)
  | cmdReset | cmdEnable | cmdDisable | cmdSetDefault | cmdSetLeds | cmdSetTypematic | cmdReadId
  | cmdResend | ledData | typematicData => exact hostByte_runsOn _ h
  | respAck | respResend | respReady => exact deviceByte_runsOn _ h

/-! ### Inputs of no row, and a whole step -/

/-- The refused inputs are the event words of another kind than a Fall with EV[2] = 1 (30_encoding.md R131). -/
theorem refusedInput_event (ev : BitVec 3) (hk : ev.extractLsb' 0 2 ≠ 1#2)
    (h2 : ev.getLsbD 2 = true) : refusedInput (.event ev) = true := by
  revert ev; decide

/-- An event word that is not refused and is no row is of kind 0. -/
theorem decodeEvent_error {ev : BitVec 3} {r : Reject} (hn : refusedInput (.event ev) = false)
    (h : decodeEvent ev = .error r) : r = .noEvent := by
  unfold decodeEvent at h
  split_ifs at h with hk h2 hi ht
  · simp [refusedInput_event ev hk h2] at hn
  · cases h; rfl

theorem onReject_runsOn {c : Config} {i : Input} {r : Reject} {s : State} (h : runnable s = true)
    (hn : refusedInput i = false) (hd : decode c i = .error r) : RunsOn (onReject i r s) := by
  cases i with
  | req w => exact respond_runsOn _ h
  | event ev =>
    obtain rfl := decodeEvent_error hn hd
    exact runsOn_next h
  | reset b => exact runsOn_next h
  | hostCommand b | hostLedData b | hostTypematicData b => exact hostByte_runsOn b h
  | deviceByte b => exact deviceByte_runsOn b h

theorem step_no_input {s : State} (h : runnable s = true) (hi : s.inputs = []) :
    step s = .next s := by
  simp [step, h, hi]

/-- A step that takes an input the decoder reads as a row runs the row. -/
theorem step_of_decode {i : Input} {rest : List Input} {instr : Instr} {s : State}
    (h : runnable s = true) (hi : s.inputs = i :: rest) (hd : decode s.cfg i = .ok instr) :
    step s = exec instr (s.withInputs rest) := by
  rw [step_next_input h hi, hd]

/-- A step that takes an input the decoder reads as no row does what such an input does. -/
theorem step_of_reject {i : Input} {rest : List Input} {r : Reject} {s : State}
    (h : runnable s = true) (hi : s.inputs = i :: rest) (hd : decode s.cfg i = .error r) :
    step s = onReject i r (s.withInputs rest) := by
  rw [step_next_input h hi, hd]

theorem step_runsOn {s : State} (h : runnable s = true)
    (hn : ∀ i ∈ s.inputs.head?, refusedInput i = false) : RunsOn (step s) := by
  cases hi : s.inputs with
  | nil =>
    rw [step_no_input h hi]
    exact runsOn_next h
  | cons i rest =>
    cases hd : decode s.cfg i with
    | ok instr =>
      rw [step_of_decode h hi hd]
      exact exec_runsOn instr h
    | error r =>
      rw [step_of_reject h hi hd]
      exact onReject_runsOn h (hn i (by simp [hi])) hd

/-! ### The opcode table's words -/

theorem decode_of_decodeTableWord {nbits w : Nat} {i : Instr}
    (h : decodeTableWord nbits w = some i) :
    decode Config.initial (tableInput nbits w) = .ok i := by
  unfold decodeTableWord at h
  split at h
  next =>
    split at h
    next hd => cases h; exact hd
    next => cases h
  next => cases h

/-! ### The statements -/

/-- Settles O47: each row is a request, a query, an event or a byte on the wire, and the rule of its shared operation keeps the machine running. -/
theorem everyInstructionAnswers : Obligations.EveryInstructionAnswers :=
  fun i _ h => exec_runsOn i h

/-- Settles O48: a step runs a row, or an input of no row that is not a reserved event word. -/
theorem onlyRefusedInputsStopTheMachine : Obligations.OnlyRefusedInputsStopTheMachine := by
  intro s h hn
  obtain ⟨t, ht, -⟩ := step_runsOn h hn
  exact ⟨t, ht⟩

/-- Settles O43: the input is taken off the list and the decoder's answer is run. -/
theorem stepRunsTheDecodedInput : Obligations.StepRunsTheDecodedInput :=
  fun _ _ _ _ h hi hd => step_of_decode h hi hd

/-- Settles O45: the reset state runs under the table's own configuration, and offers nothing after the word. -/
theorem fetchedTableWordRuns : Obligations.FetchedTableWordRuns :=
  fun nbits w _ hw =>
    step_of_decode (s := State.reset.withFetchWord nbits w) runnable_reset rfl
      (decode_of_decodeTableWord hw)

end Sys2Proof.Machine

/-! SUPPORT. What every step keeps (10_state.md R54, R44, R52; 41_bit_sampler.md R186; 30_encoding.md R114): a step as a sequence of the spec's rules, each invariant kept by each rule, and the levels of the two lines that follow. -/

namespace Sys2Proof.Machine

/-! ### A step is a sequence of rules -/

/-- The Device State that a request writes at its acceptance: the LED bits (42_sequencer.md R206), the typematic setting (R207), or nothing. -/
inductive AcceptanceWrite (k : Block) : Block → Prop
  | none : AcceptanceWrite k k
  | leds (c n s : Bool) : AcceptanceWrite k (k.setLeds c n s)
  | typematic (rate : BitVec 5) (delay : BitVec 2) : AcceptanceWrite k (k.setTypematic rate delay)

/-- One rule applied to the state. Every step is a sequence of these (`step_rules`), so what each of them keeps, a step keeps. -/
inductive Rule (s : State) : State → Prop
  | take (is : List Input) : Rule s (s.withInputs is)
  | answer (w : RespWord) : Rule s (s.emit (.resp w))
  | hold (h : List ReqWord) : Rule s (s.withHeld h)
  | accept {kind : TKind} {dataV : Bool} {k : Block} (cmd data : Byte)
      (hv : dataV = true → kind = .twoPhase) (hk : AcceptanceWrite s.blk k) :
      Rule s (s.withBlk (k.begin kind cmd dataV data))
  | fall {d : Bool} {t : State} (h : edge d s = .next t) : Rule s t
  | inhibitDone : Rule s (inhibitDone s)
  | timeout : Rule s (onTimeout s)
  | reset : Rule s (resetBlock s)

/-- Rules applied one after another. -/
abbrev Rules : State → State → Prop := Relation.ReflTransGen Rule

theorem Rule.rules {s t : State} (h : Rule s t) : Rules s t := .single h

/-- What every rule keeps, a sequence of rules keeps. -/
theorem Rules.keep {P : State → Prop} (hP : ∀ {s t}, Rule s t → P s → P t) {s t : State}
    (h : Rules s t) (hs : P s) : P t := by
  induction h with
  | refl => exact hs
  | tail _ hr ih => exact hP hr ih

theorem edges_rules {ds : List Bool} {s t : State} (h : edges ds s = .next t) : Rules s t := by
  induction ds generalizing s with
  | nil => cases h; exact .refl
  | cons d ds ih =>
    obtain ⟨u, hu, h⟩ := andThen_eq_next h
    exact .head (.fall hu) (ih h)

theorem hostByte_rules {b : Byte} {s t : State} (h : hostByte b s = .next t) : Rules s t := by
  unfold hostByte at h
  split at h
  next => exact .head .inhibitDone (edges_rules h)
  next => cases h; exact .refl

theorem respond_rules {w : RespWord} {s t : State} (h : respond w s = .next t) : Rules s t := by
  cases h
  exact (Rule.answer w).rules

theorem offer_rules {w : ReqWord} {f : State → State} {s t : State} (h : offer w f s = .next t)
    (hf : ∀ u, Rule u (f u)) : Rules s t := by
  obtain ⟨-, -, ho⟩ | ⟨held, ho⟩ := offer_cases w f s <;> cases ho.symm.trans h
  · exact .head (.hold _) (hf _).rules
  · exact (Rule.hold _).rules

/-- A transaction request is offered on the port, and its acceptance is a rule (42_sequencer.md R200 to R209). -/
theorem exec_transaction_offer {i : Instr} (hi : i.isTransaction = true) (s : State) :
    ∃ w f, exec i s = offer w f s ∧ ∀ u, Rule u (f u) := by
  cases i with
  | kbReset | kbEnable | kbDisable | kbDefaults | kbReadid | kbResend =>
    exact ⟨_, _, rfl, fun _ => .accept _ _ (by decide) .none⟩
  | kbSetleds c n l => exact ⟨_, _, rfl, fun _ => .accept _ _ (by decide) (.leds c n l)⟩
  | kbTypematic => exact ⟨_, _, rfl, fun _ => .accept _ _ (by decide) (.typematic _ _)⟩
  | _ => cases hi

theorem exec_transaction_rules {i : Instr} {s t : State} (hi : i.isTransaction = true)
    (h : exec i s = .next t) : Rules s t := by
  obtain ⟨w, f, ho, hf⟩ := exec_transaction_offer hi s
  exact offer_rules (ho.symm.trans h) hf

theorem exec_rules {i : Instr} {s t : State} (h : exec i s = .next t) : Rules s t := by
  cases i with
  | kbReset | kbEnable | kbDisable | kbDefaults | kbSetleds | kbTypematic | kbReadid | kbResend =>
    exact exec_transaction_rules rfl h
  | qLocks | qResult | qStatus | qDev | qDiag | qXlat => exact respond_rules h
  | fall d => exact (Rule.fall h).rules
  | inhdone => cases h; exact Rule.inhibitDone.rules
  | timeout => cases h; exact Rule.timeout.rules
  | rst => cases h; exact Rule.reset.rules
  | cmdReset | cmdEnable | cmdDisable | cmdSetDefault | cmdSetLeds | cmdSetTypematic | cmdReadId
  | cmdResend | ledData | typematicData => exact hostByte_rules h
  | respAck | respResend | respReady => exact edges_rules h

theorem onReject_rules {i : Input} {r : Reject} {s t : State} (h : onReject i r s = .next t) :
    Rules s t := by
  cases i with
  | req w => exact respond_rules h
  | event ev =>
    simp only [onReject] at h
    split at h
    next => cases h; exact .refl
    next => cases h
  | reset b => cases h; exact .refl
  | hostCommand b | hostLedData b | hostTypematicData b => exact hostByte_rules h
  | deviceByte b => exact edges_rules h

theorem step_rules {s t : State} (h : step s = .next t) : Rules s t := by
  have hr := step_runnable h
  cases hi : s.inputs with
  | nil =>
    cases (step_no_input hr hi).symm.trans h
    exact .refl
  | cons i rest =>
    refine .head (.take rest) ?_
    cases hd : decode s.cfg i with
    | ok instr => exact exec_rules ((step_of_decode hr hi hd).symm.trans h)
    | error r => exact onReject_rules ((step_of_reject hr hi hd).symm.trans h)

/-! ### R54 and the configuration -/

@[simp] theorem inhibitDone_cfg (s : State) : (inhibitDone s).cfg = s.cfg := by
  unfold inhibitDone; split <;> rfl
@[simp] theorem onTimeout_cfg (s : State) : (onTimeout s).cfg = s.cfg := by
  unfold onTimeout; split <;> rfl

/-- No rule writes a parameter (20_memory.md R92). -/
theorem Rule.cfg_eq {s t : State} (h : Rule s t) : t.cfg = s.cfg := by
  cases h with
  | fall h => exact (edge_frame h).1
  | inhibitDone => exact inhibitDone_cfg s
  | timeout => exact onTimeout_cfg s
  | take | answer | hold | accept | reset => rfl

/-- Every rule leads from a state in which the machine runs to another one (10_state.md R54). -/
theorem Rule.runnable {s t : State} (hr : Rule s t) (h : runnable s = true) :
    runnable t = true := by
  cases hr with
  | take | answer | hold => exact h
  | accept cmd data hv => exact runnable_begin cmd data _ h hv
  | fall he =>
    exact runnable_congr (Rule.fall he).cfg_eq
      ((inv_iff_Inv _).2 (edge_Inv (Inv_of_runnable h) he)) h
  | inhibitDone => exact runnable_inhibitDone h
  | timeout => exact runnable_onTimeout h
  | reset => exact runnable_resetBlock h

theorem Rules.cfg_eq {s t : State} (h : Rules s t) : t.cfg = s.cfg :=
  h.keep (P := fun u => u.cfg = s.cfg) (fun hr hu => hr.cfg_eq.trans hu) rfl

/-- Settles O46: a step starts in a state in which the machine runs, and every rule keeps it running under the same configuration. -/
theorem everyStepKeepsTheInvariants : Obligations.EveryStepKeepsTheInvariants := by
  intro s t h
  have hr := step_rules h
  have ht := hr.keep Rule.runnable (step_runnable h)
  exact ⟨((runnable_iff t).1 ht).2, hr.cfg_eq⟩

/-! ### The result word -/

/-- A word that RESULT may hold: no reserved code, not REJECTED, and bits 7:5 zero (30_encoding.md R114 to R116). -/
def LegalResult (w : RespWord) : Prop :=
  (w.extractLsb' 0 4).toNat ≤ 6 ∧ w.extractLsb' 5 3 = 0#3

/-- CODE stands in bits 3:0 of a result word (30_encoding.md R115). -/
theorem resultWord_code (c : ResultCode) (n : Bool) (b : Byte) (id : BitVec 16) :
    (resultWord c n b id).extractLsb' 0 4 = c.num := by
  apply BitVec.eq_of_getLsbD_eq
  intro i hi
  simp only [resultWord, flag, field, BitVec.getLsbD_extractLsb', BitVec.getLsbD_or,
    BitVec.getLsbD_shiftLeft, BitVec.getLsbD_setWidth]
  interval_cases i <;> simp

/-- No field of a result word stands in bits 7:5 (30_encoding.md R115). -/
theorem resultWord_reserved (c : ResultCode) (n : Bool) (b : Byte) (id : BitVec 16) :
    (resultWord c n b id).extractLsb' 5 3 = 0#3 := by
  apply BitVec.eq_of_getLsbD_eq
  intro i hi
  simp only [resultWord, flag, field, BitVec.getLsbD_extractLsb', BitVec.getLsbD_or,
    BitVec.getLsbD_shiftLeft, BitVec.getLsbD_setWidth]
  interval_cases i <;> simp

theorem legalResult_resultWord {c : ResultCode} (hc : c ≠ .rejected) (n : Bool) (b : Byte)
    (id : BitVec 16) : LegalResult (resultWord c n b id) := by
  refine ⟨?_, resultWord_reserved c n b id⟩
  rw [resultWord_code]
  cases c with
  | rejected => cases hc rfl
  | none | ack | ready | deviceId | protocolError | resendLimit | timeout => decide

/-! ### A good block -/

/-- The host is sending a frame: from the inhibit to the acknowledgment bit. -/
def Block.Sends (k : Block) : Prop :=
  k.bsMode = .inhibit ∨ k.bsMode = .transmitting ∨ k.bsMode = .ack

/-- What a good state asks of its block beyond R54, as one proposition over the elements. -/
structure Block.Good (c : Config) (k : Block) : Prop where
  resends : k.tResends.toNat ≤ c.maxResend
  scanLen : k.sbLen.toNat < c.scanBufMax
  scanAcc : k.sbAcc.toNat < 2 ^ (8 * k.sbLen.toNat)
  frame : k.Sends → k.txFrame = encodeFrame k.tLast
  data : k.bsMode = .transmitting → k.datDrv = !k.txFrame.getLsbD (k.txIdx.toNat - 1)
  result : LegalResult k.result

theorem sendsLastByte_iff (s : State) : sendsLastByte s = true ↔
    (s.blk.Sends → s.blk.txFrame = encodeFrame s.blk.tLast) := by
  unfold sendsLastByte Block.Sends
  cases s.blk.bsMode <;> simp

/-- Outside TRANSMITTING, data is not driven: that is R54 (f). -/
theorem presentsFrameBit_iff {s : State} (h : s.blk.Inv) : presentsFrameBit s = true ↔
    (s.blk.bsMode = .transmitting →
      s.blk.datDrv = !s.blk.txFrame.getLsbD (s.blk.txIdx.toNat - 1)) := by
  have hf := h.f
  unfold presentsFrameBit
  cases hm : s.blk.bsMode <;> simp_all

theorem good_iff (s : State) : good s = true ↔ runnable s = true ∧ s.blk.Good s.cfg := by
  simp only [good, Bool.and_eq_true, and_assoc, resendsInRange, scanInRange, resultLegal,
    decide_eq_true_eq, beq_iff_eq, sendsLastByte_iff]
  refine and_congr_right fun hr => ?_
  rw [presentsFrameBit_iff (Inv_of_runnable hr)]
  exact ⟨fun ⟨resends, len, acc, frame, data, result⟩ => ⟨resends, len, acc, frame, data, result⟩,
    fun h => ⟨h.resends, h.scanLen, h.scanAcc, h.frame, h.data, h.result⟩⟩

/-! ### Every rule keeps a good block good -/

section
variable {c : Config} {k : Block}

theorem reset_Good (hc : 1 ≤ c.scanBufMax) : Block.reset.Good c where
  resends := Nat.zero_le _
  scanLen := hc
  scanAcc := by decide
  frame := by simp [Block.Sends, Block.reset]
  data hm := by cases hm
  result := ⟨by decide, by decide⟩

/-- TX_BYTE makes the frame that of the new T_LAST and releases data (41_bit_sampler.md R180). -/
theorem txByte_Good (b : Byte) (h : k.Good c) : (k.txByte b).Good c :=
  { h with frame := fun _ => rfl, data := fun hm => by cases hm }

theorem begin_Good {kind : TKind} {dataV : Bool} (cmd data : Byte) (h : k.Good c) :
    (k.begin kind cmd dataV data).Good c :=
  txByte_Good cmd { h with resends := Nat.zero_le _ }

theorem AcceptanceWrite.good {l : Block} (hl : AcceptanceWrite k l) (h : k.Good c) : l.Good c := by
  cases hl with
  | none => exact h
  | leds | typematic => exact { h with }

theorem sendData_Good (h : k.Good c) : k.sendData.Good c :=
  txByte_Good k.tData { h with resends := Nat.zero_le _ }

/-- A resend below the limit is counted up to the limit at most (10_state.md R44). -/
theorem sendAgain_Good (hr : k.tResends.toNat < c.maxResend) (h : k.Good c) :
    k.sendAgain.Good c :=
  txByte_Good k.tLast { h with
    resends := by
      rw [BitVec.toNat_add]
      exact (Nat.mod_le _ _).trans hr }

theorem finishWith_Good {w : RespWord} (hw : LegalResult w) (h : k.Good c) :
    (k.finishWith w).Good c :=
  { h with resends := Nat.zero_le _, result := hw }

theorem finish_Good {s : State} {code : ResultCode} (hc : code ≠ .rejected) (b : Byte)
    (id : BitVec 16) (h : s.blk.Good c) : (finish code b id s).blk.Good c :=
  finishWith_Good (legalResult_resultWord hc _ _ _) h

theorem bsAbort_Good (h : k.Good c) : k.bsAbort.Good c := by
  cases hm : k.bsMode with
  | idle | receiving => simpa only [Block.bsAbort, hm] using h
  | inhibit | transmitting | ack =>
    simp only [Block.bsAbort, hm]
    exact { h with frame := by simp [Block.Sends], data := fun ht => by cases ht }

theorem receiveBit_Good (d : Bool) (h : k.Good c) : (k.receiveBit d).Good c :=
  { h with frame := by simp [Block.Sends, Block.receiveBit], data := fun hm => by cases hm }

theorem clearRx_Good (h : k.Good c) : k.clearRx.Good c :=
  { h with frame := by simp [Block.Sends, Block.clearRx], data := fun hm => by cases hm }

theorem countBad_Good (p q : Bool) (h : k.Good c) : (k.countBad p q).Good c := { h with }

/-- The start bit is 0, and data is pulled low for it (40_framer.md R150, 41_bit_sampler.md R181). -/
theorem encodeFrame_startBit (b : Byte) : (encodeFrame b).getLsbD 0 = false := by
  simp [encodeFrame]

theorem startFrame_Good (hm : k.bsMode = .inhibit) (h : k.Good c) : k.startFrame.Good c :=
  have hf := h.frame (.inl hm)
  { h with
    frame := fun _ => hf
    data := fun _ => by
      simp only [Block.startFrame, hf]
      exact congrArg not (encodeFrame_startBit k.tLast).symm }

theorem presentBit_Good (hi : k.txIdx.toNat ≤ 9) (h : k.Good c) : k.presentBit.Good c :=
  { h with
    data := fun _ => by
      have hx : (k.txIdx + 1#4).toNat - 1 = k.txIdx.toNat := by simp; omega
      simp only [Block.presentBit, hx] }

theorem presentStop_Good (hm : k.bsMode = .transmitting) (h : k.Good c) : k.presentStop.Good c :=
  { h with frame := fun _ => h.frame (.inr (.inl hm)), data := fun hm => by cases hm }

theorem sampleAck_Good (d : Bool) (h : k.Good c) : (k.sampleAck c d).Good c :=
  { h with frame := by simp [Block.Sends, Block.sampleAck], data := fun hm => by cases hm }

theorem storeDevId_Good (id : BitVec 16) (h : k.Good c) : (k.storeDevId id).Good c := { h with }

theorem setLed_Good (l : Lock) (v : Bool) (h : k.Good c) : (k.setLed l v).Good c := by
  cases l <;> exact { h with }

theorem setRel_Good (l : Lock) (v : Bool) (h : k.Good c) : (k.setRel l v).Good c := by
  cases l <;> exact { h with }

theorem lockPress_Good (l : Lock) (h : k.Good c) : (k.lockPress l).Good c := by
  unfold Block.lockPress
  split
  next => exact setRel_Good l _ (setLed_Good l _ h)
  next => exact setRel_Good l _ h

theorem clearScan_Good (hc : 1 ≤ c.scanBufMax) (h : k.Good c) : k.clearScan.Good c :=
  { h with scanLen := hc, scanAcc := by simp [Block.clearScan] }

theorem desync_Good (hc : 1 ≤ c.scanBufMax) (h : k.Good c) : k.desync.Good c :=
  { clearScan_Good hc h with }

/-- One byte more makes the accumulated value one byte longer at most (43_scan_decoder.md R264). -/
theorem scanAcc_lt (b : Byte) {n : Nat} (h : k.sbAcc.toNat < 2 ^ (8 * n)) :
    (k.scanAcc b).toNat < 2 ^ (8 * (n + 1)) := by
  have hb : b.toNat < 2 ^ (8 * (n + 1)) :=
    b.isLt.trans_le (Nat.pow_le_pow_right (by decide) (Nat.le_add_left _ _))
  have hs : k.sbAcc.toNat * 2 ^ 8 < 2 ^ (8 * (n + 1)) := by
    rw [Nat.mul_succ, Nat.pow_add]
    exact Nat.mul_lt_mul_of_pos_right h (by decide)
  rw [Block.scanAcc, BitVec.toNat_or, BitVec.toNat_shiftLeft, BitVec.toNat_setWidth,
    Nat.shiftLeft_eq]
  exact Nat.or_lt_two_pow ((Nat.mod_le _ _).trans_lt hs) ((Nat.mod_le _ _).trans_lt hb)

theorem keepByte_Good (b : Byte) (hc : c.scanBufMax ≤ 3) (hl : k.sbLen.toNat + 1 < c.scanBufMax)
    (h : k.Good c) : (k.keepByte b).Good c :=
  have hx : (k.sbLen + 1#2).toNat = k.sbLen.toNat + 1 := by simp; omega
  { h with
    scanLen := by simpa only [Block.keepByte, hx] using hl
    scanAcc := by simpa only [Block.keepByte, hx] using scanAcc_lt b h.scanAcc }

end

/-- The bounds that a well-formed configuration sets on SCAN_BUF_MAX (log entry 16). -/
theorem scanBufMax_of_wf {c : Config} (h : c.wf = true) : 1 ≤ c.scanBufMax ∧ c.scanBufMax ≤ 3 := by
  simp only [Config.wf, Config.boundsFit, Bool.and_eq_true, decide_eq_true_eq] at h
  omega

theorem resolve_Good (x : KeyId) (p : Bool) {s : State} (h : s.blk.Good s.cfg) :
    (resolve x p s).blk.Good s.cfg := by
  obtain ⟨l, -, h'⟩ | ⟨-, h'⟩ := resolve_cases x p s <;> rw [h']
  · cases p
    · exact setRel_Good l _ h
    · exact lockPress_Good l h
  · exact h

theorem scanByte_Good (b : Byte) {s : State} (hc : s.cfg.wf = true) (h : s.blk.Good s.cfg) :
    (scanByte b s).blk.Good s.cfg := by
  obtain ⟨h1, h3⟩ := scanBufMax_of_wf hc
  obtain ⟨x, p, h'⟩ | ⟨-, h'⟩ | ⟨hl, h'⟩ := scanByte_cases b s <;> rw [h']
  · exact resolve_Good x p (s := s.withBlk s.blk.clearScan) (clearScan_Good h1 h)
  · exact desync_Good h1 h
  · exact keepByte_Good b h3 hl h

theorem onResponse_Good (b : Byte) {s : State} (h : s.blk.Good s.cfg) :
    (onResponse b s).blk.Good s.cfg := by
  obtain ⟨-, -, h'⟩ | ⟨-, -, h'⟩ | ⟨-, h'⟩ | ⟨-, -, -, h'⟩ | ⟨-, hr, h'⟩ | ⟨c, x, -, hc, -, h'⟩ |
    ⟨id, h'⟩ := onResponse_cases b s <;> rw [h']
  · exact { h with }
  · exact { h with }
  · exact { h with }
  · exact sendData_Good h
  · exact sendAgain_Good hr h
  · exact finish_Good hc x _ h
  · exact finish_Good (by decide) _ id (storeDevId_Good id h)

theorem dispatch_Good {b : Byte} {s t : State} (hc : s.cfg.wf = true) (h : s.blk.Good s.cfg)
    (ht : dispatch b s = .next t) : t.blk.Good s.cfg := by
  obtain ⟨-, rfl⟩ | ⟨-, rfl⟩ := dispatch_cases ht
  · exact onResponse_Good b h
  · exact scanByte_Good b hc h

theorem edge_Good {d : Bool} {s t : State} (hc : s.cfg.wf = true) (h : s.blk.Good s.cfg)
    (ht : edge d s = .next t) : t.blk.Good s.cfg := by
  obtain ⟨-, -, rfl⟩ | ⟨-, -, ht⟩ | ⟨-, rfl⟩ | ⟨-, -, hi, rfl⟩ | ⟨hm, -, rfl⟩ | ⟨-, -, rfl⟩ :=
    edge_cases ht
  · exact receiveBit_Good d h
  · obtain ⟨b, -, ht⟩ | ⟨p, q, -, rfl⟩ := receiveLast_cases ht
    · exact dispatch_Good (s := s.withBlk s.blk.clearRx) hc (clearRx_Good h) ht
    · exact countBad_Good p q (clearRx_Good h)
  · exact h
  · exact presentBit_Good hi h
  · exact presentStop_Good hm h
  · exact sampleAck_Good d h

theorem inhibitDone_Good {s : State} (h : s.blk.Good s.cfg) : (inhibitDone s).blk.Good s.cfg := by
  unfold inhibitDone
  split
  next hm => exact startFrame_Good hm h
  next => exact h

theorem onTimeout_Good {s : State} (h : s.blk.Good s.cfg) : (onTimeout s).blk.Good s.cfg := by
  unfold onTimeout
  split
  next => exact h
  next => exact finish_Good (by decide) _ _ (bsAbort_Good h)

theorem Rule.good {s t : State} (hr : Rule s t) (h : good s = true) : good t = true := by
  obtain ⟨hs, hk⟩ := (good_iff s).1 h
  obtain ⟨hc, -⟩ := (runnable_iff s).1 hs
  refine (good_iff t).2 ⟨hr.runnable hs, ?_⟩
  rw [hr.cfg_eq]
  cases hr with
  | take | answer | hold => exact hk
  | accept cmd data _ hl => exact begin_Good cmd data (hl.good hk)
  | fall he => exact edge_Good hc hk he
  | inhibitDone => exact inhibitDone_Good hk
  | timeout => exact onTimeout_Good hk
  | reset => exact reset_Good (scanBufMax_of_wf hc).1

/-- Settles O50: every rule keeps a good state good. -/
theorem everyStepKeepsGoodStates : Obligations.EveryStepKeepsGoodStates :=
  fun _ _ hs h => (step_rules h).keep Rule.good hs

/-! ### The levels of the two lines -/

/-- A line that the host does not drive is at the device's level (20_memory.md R82). -/
@[simp] theorem lineLevel_released (dev : Bool) : lineLevel false dev = dev := rfl
/-- A line that the host drives is low (20_memory.md R82). -/
@[simp] theorem lineLevel_driven (dev : Bool) : lineLevel true dev = false := rfl

theorem Block.Inv.clkDrv_released {k : Block} (h : k.Inv) (hm : k.bsMode ≠ .inhibit) :
    k.clkDrv = false := Bool.eq_false_iff.2 (mt h.e.1 hm)

theorem Block.Inv.datDrv_released {k : Block} (h : k.Inv) (hm : k.bsMode ≠ .transmitting) :
    k.datDrv = false := Bool.eq_false_iff.2 (mt h.f hm)

theorem hostDrives_eq_false {k : Block} (h : k.hostDrives = false) :
    k.bsMode ≠ .inhibit ∧ k.bsMode ≠ .transmitting := by
  simpa [Block.hostDrives] using h

/-- Settles O22: the drives are those of R54 (e) and (f), and in TRANSMITTING data follows the presented bit. -/
theorem lineLevelsFollowTheMode : Obligations.LineLevelsFollowTheMode := by
  intro s dev h
  obtain ⟨hr, hg⟩ := (good_iff s).1 h
  have hk := Inv_of_runnable hr
  refine ⟨fun hd => ?_, fun hm => ?_, fun hm => ?_⟩
  · obtain ⟨hi, ht⟩ := hostDrives_eq_false hd
    simp [hk.clkDrv_released hi, hk.datDrv_released ht]
  · simp [hk.e.2 hm, hk.datDrv_released (by simp [hm])]
  · rw [hk.clkDrv_released (by simp [hm]), hg.data hm]
    exact ⟨rfl, by simp [lineLevel, Bool.and_comm]⟩

end Sys2Proof.Machine

/-! SUPPORT. Who writes the LED bits (10_state.md R48, 43_scan_decoder.md R271, R275): the requests at their acceptance, and the scan decoder once at most in the eleven edges of a byte. -/

namespace Sys2Proof.Machine

/-- The three LED bits. -/
def Block.leds (k : Block) : Bool × Bool × Bool := (k.ledCaps, k.ledNum, k.ledScroll)

/-- No transaction is in flight before and after, and the drives and the outputs are the same: what a lock-key toggle keeps (43_scan_decoder.md R275). -/
structure QuietIdle (s t : State) : Prop where
  idleBefore : s.blk.seqPhase = .idle
  idleAfter : t.blk.seqPhase = .idle
  clkDrv : t.blk.clkDrv = s.blk.clkDrv
  datDrv : t.blk.datDrv = s.blk.datDrv
  out : t.out = s.out

/-- The receive path waits for the first bit of a frame (41_bit_sampler.md R172). -/
def Block.RxReady (k : Block) : Prop := k.bsMode = .idle ∧ k.rxIdx = 0#4

/-! ### What one frame does to the LED bits -/

/-- The elements of a block that the scan decoder leaves alone and the line rules read or write. -/
structure Block.SameLine (k l : Block) : Prop where
  seqPhase : l.seqPhase = k.seqPhase
  clkDrv : l.clkDrv = k.clkDrv
  datDrv : l.datDrv = k.datDrv
  bsMode : l.bsMode = k.bsMode
  rxIdx : l.rxIdx = k.rxIdx

theorem Block.SameLine.refl (k : Block) : k.SameLine k := ⟨rfl, rfl, rfl, rfl, rfl⟩

theorem Block.SameLine.setLed {k m : Block} (h : k.SameLine m) (l : Lock) (v : Bool) :
    k.SameLine (m.setLed l v) := by
  cases l <;> exact { h with }

theorem Block.SameLine.setRel {k m : Block} (h : k.SameLine m) (l : Lock) (v : Bool) :
    k.SameLine (m.setRel l v) := by
  cases l <;> exact { h with }

theorem Block.SameLine.lockPress {k m : Block} (h : k.SameLine m) (l : Lock) :
    k.SameLine (m.lockPress l) := by
  unfold Block.lockPress
  split
  next => exact (h.setLed l _).setRel l _
  next => exact h.setRel l _

theorem resolve_sameLine (x : KeyId) (p : Bool) (s : State) :
    s.blk.SameLine (resolve x p s).blk := by
  obtain ⟨l, -, h⟩ | ⟨-, h⟩ := resolve_cases x p s <;> rw [h]
  · cases p
    · exact (Block.SameLine.refl _).setRel l _
    · exact (Block.SameLine.refl _).lockPress l
  · exact .refl _

theorem scanByte_sameLine (b : Byte) (s : State) : s.blk.SameLine (scanByte b s).blk := by
  obtain ⟨x, p, h⟩ | ⟨-, h⟩ | ⟨-, h⟩ := scanByte_cases b s <;> rw [h]
  · exact { resolve_sameLine x p (s.withBlk s.blk.clearScan) with }
  · exact ⟨rfl, rfl, rfl, rfl, rfl⟩
  · exact ⟨rfl, rfl, rfl, rfl, rfl⟩

/-- A scan byte that changes an LED bit is a lock key's, and it emits nothing (43_scan_decoder.md R275). -/
theorem scanByte_leds (b : Byte) (s : State) :
    (scanByte b s).blk.leds = s.blk.leds ∨ (scanByte b s).out = s.out := by
  obtain ⟨x, p, h⟩ | ⟨-, h⟩ | ⟨-, h⟩ := scanByte_cases b s <;> rw [h]
  · obtain ⟨l, -, h'⟩ | ⟨-, h'⟩ := resolve_cases x p (s.withBlk s.blk.clearScan) <;> rw [h']
    · exact .inr rfl
    · exact .inl rfl
  · exact .inl rfl
  · exact .inl rfl

/-- A response writes no LED bit; it begins to send a byte, or the receive path stays as it is. -/
theorem onResponse_leds (b : Byte) (s : State) :
    (onResponse b s).blk.leds = s.blk.leds ∧
      ((onResponse b s).blk.Sends ∨ (s.blk.RxReady → (onResponse b s).blk.RxReady)) := by
  obtain ⟨-, -, h⟩ | ⟨-, -, h⟩ | ⟨-, h⟩ | ⟨-, -, -, h⟩ | ⟨-, -, h⟩ | ⟨c, x, -, -, -, h⟩ | ⟨id, h⟩ :=
    onResponse_cases b s <;> rw [h]
  · exact ⟨rfl, .inr fun hr => hr⟩
  · exact ⟨rfl, .inr fun hr => hr⟩
  · exact ⟨rfl, .inr fun hr => hr⟩
  · exact ⟨rfl, .inl (.inl rfl)⟩
  · exact ⟨rfl, .inl (.inl rfl)⟩
  · exact ⟨rfl, .inr fun hr => hr⟩
  · exact ⟨rfl, .inr fun hr => hr⟩

/-- The end of a frame: the LED bits stay and the block sends or is ready for the next frame, or an idle block's scan decoder toggles one. -/
theorem receiveLast_leds {d : Bool} {s t : State} (h : receiveLast d s = .next t) :
    (t.blk.leds = s.blk.leds ∧ (t.blk.Sends ∨ t.blk.RxReady)) ∨
      (QuietIdle s t ∧ t.blk.RxReady) := by
  obtain ⟨b, -, h⟩ | ⟨p, q, -, rfl⟩ := receiveLast_cases h
  · obtain ⟨-, rfl⟩ | ⟨hp, rfl⟩ := dispatch_cases h
    · obtain ⟨hl, hr⟩ := onResponse_leds b (s.withBlk s.blk.clearRx)
      exact .inl ⟨hl, hr.imp_right fun hr => hr ⟨rfl, rfl⟩⟩
    · have hs := scanByte_sameLine b (s.withBlk s.blk.clearRx)
      have hr : (scanByte b (s.withBlk s.blk.clearRx)).blk.RxReady := ⟨hs.bsMode, hs.rxIdx⟩
      obtain hl | ho := scanByte_leds b (s.withBlk s.blk.clearRx)
      · exact .inl ⟨hl, .inr hr⟩
      · exact .inr ⟨⟨hp, hs.seqPhase.trans hp, hs.clkDrv, hs.datDrv, ho⟩, hr⟩
  · exact .inl ⟨rfl, .inr ⟨rfl, rfl⟩⟩

/-! ### What eleven edges do to the LED bits -/

/-- The receive path replaced. -/
def Block.withRx (v : BitVec 11) (i : BitVec 4) (m : BsMode) (k : Block) : Block :=
  { k with rxShift := v, rxIdx := i, bsMode := m }

/-- Edges that do not complete a frame write only the receive path (41_bit_sampler.md R171). -/
theorem edges_gather {ds : List Bool} {s t : State}
    (hm : s.blk.bsMode = .idle ∨ s.blk.bsMode = .receiving)
    (hn : s.blk.rxIdx.toNat + ds.length ≤ 10) (h : edges ds s = .next t) :
    ∃ v i m, t = s.withBlk (s.blk.withRx v i m) := by
  induction ds generalizing s with
  | nil => cases h; exact ⟨_, _, _, rfl⟩
  | cons d ds ih =>
    simp only [List.length_cons] at hn
    have hx : (s.blk.rxIdx + 1#4).toNat = s.blk.rxIdx.toNat + 1 := by simp; omega
    rw [edges_cons, edge_receiveBit d hm (by omega), andThen_next] at h
    obtain ⟨v, i, m, rfl⟩ := ih (.inr rfl) (by simp only [withBlk_blk, Block.receiveBit, hx]; omega) h
    exact ⟨v, i, m, rfl⟩

/-- After the end of a frame, ten more edges complete no other one. -/
theorem edges_of_rxReady {ds : List Bool} {s t : State} (hr : s.blk.RxReady)
    (hn : ds.length ≤ 10) (h : edges ds s = .next t) :
    ∃ v i m, t = s.withBlk (s.blk.withRx v i m) :=
  edges_gather (.inl hr.1) (by simpa [hr.2] using hn) h

theorem not_sends {k : Block} (hm : k.bsMode = .idle ∨ k.bsMode = .receiving) : ¬k.Sends := by
  rintro (h | h | h) <;> simp [h] at hm

/-- While a transaction is in flight or the host sends, eleven edges change no LED bit: to reach the scan decoder they would have to complete two frames, or one after an acknowledgment. -/
theorem edges_leds_of_busy {ds : List Bool} {s t : State} (hn : ds.length ≤ 11)
    (hk : s.blk.seqPhase ≠ .idle ∨ s.blk.Sends) (h : edges ds s = .next t) :
    t.blk.leds = s.blk.leds := by
  induction ds generalizing s with
  | nil => cases h; rfl
  | cons d ds ih =>
    simp only [List.length_cons] at hn
    obtain ⟨u, hu, ht⟩ := andThen_eq_next h
    have ih := ih (s := u) (by omega)
    obtain ⟨hm, -, rfl⟩ | ⟨hm, -, hu⟩ | ⟨-, rfl⟩ | ⟨hm, -, -, rfl⟩ | ⟨-, -, rfl⟩ | ⟨-, -, rfl⟩ :=
      edge_cases hu
    · exact ih (.inl (hk.resolve_right (not_sends hm))) ht
    · have hp := hk.resolve_right (not_sends (.inr hm))
      obtain ⟨hl, hs | hr⟩ | ⟨hq, -⟩ := receiveLast_leds hu
      · exact (ih (.inr hs) ht).trans hl
      · obtain ⟨v, i, m, rfl⟩ := edges_of_rxReady hr (by omega) ht
        exact hl
      · exact absurd hq.idleBefore hp
    · exact ih hk ht
    · exact ih (.inr (.inr (.inl hm))) ht
    · exact ih (.inr (.inr (.inr rfl))) ht
    · exact ih (.inl (by simp [Block.sampleAck])) ht

/-- Eleven edges that change an LED bit are the scan decoder's, in an idle block (43_scan_decoder.md R271, R275). -/
theorem edges_toggle {ds : List Bool} {s t : State} (hn : ds.length ≤ 11)
    (h : edges ds s = .next t) (hl : t.blk.leds ≠ s.blk.leds) : QuietIdle s t := by
  induction ds generalizing s with
  | nil => cases h; exact absurd rfl hl
  | cons d ds ih =>
    have hs : ¬s.blk.Sends := fun hs => hl (edges_leds_of_busy hn (.inr hs) h)
    simp only [List.length_cons] at hn
    obtain ⟨u, hu, h⟩ := andThen_eq_next h
    obtain ⟨-, -, rfl⟩ | ⟨-, -, hu⟩ | ⟨hm, -⟩ | ⟨hm, -, -, -⟩ | ⟨hm, -, -⟩ | ⟨hm, -, -⟩ :=
      edge_cases hu
    · exact { ih (by omega) h hl with }
    · obtain ⟨hlu, hsu | hr⟩ | ⟨hq, hr⟩ := receiveLast_leds hu
      · exact absurd ((edges_leds_of_busy (by omega) (.inr hsu) h).trans hlu) hl
      · obtain ⟨v, i, m, rfl⟩ := edges_of_rxReady hr (by omega) h
        exact absurd hlu hl
      · obtain ⟨v, i, m, rfl⟩ := edges_of_rxReady hr (by omega) h
        exact { hq with }
    · exact absurd (.inl hm) hs
    · exact absurd (.inr (.inl hm)) hs
    · exact absurd (.inr (.inl hm)) hs
    · exact absurd (.inr (.inr hm)) hs

/-! ### Which rows change an LED bit -/

theorem edges_singleton (d : Bool) (s : State) : edges [d] s = edge d s := by
  rw [edges_cons]
  cases edge d s <;> rfl

theorem edge_toggle {d : Bool} {s t : State} (h : edge d s = .next t)
    (hl : t.blk.leds ≠ s.blk.leds) : QuietIdle s t :=
  edges_toggle (ds := [d]) (by simp) ((edges_singleton d s).trans h) hl

theorem deviceByte_toggle {b : Byte} {s t : State} (h : deviceByte b s = .next t)
    (hl : t.blk.leds ≠ s.blk.leds) : QuietIdle s t :=
  edges_toggle (ds := wireBits (encodeFrame b)) (Nat.le_refl 11) h hl

@[simp] theorem inhibitDone_leds (s : State) : (inhibitDone s).blk.leds = s.blk.leds := by
  unfold inhibitDone; split <;> rfl

@[simp] theorem bsAbort_leds (k : Block) : k.bsAbort.leds = k.leds := by
  unfold Block.bsAbort; split <;> rfl

@[simp] theorem onTimeout_leds (s : State) : (onTimeout s).blk.leds = s.blk.leds := by
  unfold onTimeout
  split
  next => rfl
  next => exact bsAbort_leds s.blk

theorem inhibitDone_sends {s : State} (hm : s.blk.bsMode = .inhibit) :
    (inhibitDone s).blk.Sends := by
  rw [inhibitDone, if_pos hm]
  exact .inr (.inl rfl)

/-- A host byte crosses the wire while the host sends, so it changes no LED bit. -/
theorem hostByte_leds {b : Byte} {s t : State} (h : hostByte b s = .next t) :
    t.blk.leds = s.blk.leds := by
  unfold hostByte at h
  split at h
  next hb =>
    exact (edges_leds_of_busy (ds := txLevels false) (Nat.le_refl 11)
      (.inr (inhibitDone_sends hb.1)) h).trans (inhibitDone_leds s)
  next => cases h; rfl

theorem offer_leds {w : ReqWord} {f : State → State} {s t : State} (h : offer w f s = .next t)
    (hf : ∀ u, (f u).blk.leds = u.blk.leds) : t.blk.leds = s.blk.leds := by
  obtain ⟨-, -, ho⟩ | ⟨held, ho⟩ := offer_cases w f s <;> cases ho.symm.trans h
  · exact hf _
  · rfl

/-- KB_SETLEDS writes its operands to the LED bits, or it is held (42_sequencer.md R206). -/
theorem exec_kbSetleds_leds {x y z : Bool} {s t : State}
    (h : exec (.kbSetleds x y z) s = .next t) :
    t.blk.leds = (x, y, z) ∨ t.blk.leds = s.blk.leds := by
  simp only [exec, execKbSetleds] at h
  obtain ⟨-, -, ho⟩ | ⟨held, ho⟩ := offer_cases _ _ s <;> cases ho.symm.trans h
  · exact .inl rfl
  · exact .inr rfl

/-- The rows that bring something from the device: an edge, or a byte of its own. -/
def FromDevice (i : Instr) : Prop :=
  (∃ d, i = .fall d) ∨ i = .respAck ∨ i = .respResend ∨ i = .respReady

theorem exec_toggle {i : Instr} {s t : State} (h : exec i s = .next t) (hr : i ≠ .rst)
    (hs : ∀ x y z, i ≠ .kbSetleds x y z) (hl : t.blk.leds ≠ s.blk.leds) :
    FromDevice i ∧ QuietIdle s t := by
  cases i with
  | kbReset | kbEnable | kbDisable | kbDefaults | kbTypematic | kbReadid | kbResend =>
    simp only [exec, execKbReset, execKbEnable, execKbDisable, execKbDefaults, execKbTypematic,
      execKbReadid, execKbResend] at h
    exact absurd (offer_leds h fun _ => rfl) hl
  | kbSetleds x y z => exact absurd rfl (hs x y z)
  | qLocks | qResult | qStatus | qDev | qDiag | qXlat => cases h; exact absurd rfl hl
  | fall d => exact ⟨.inl ⟨d, rfl⟩, edge_toggle h hl⟩
  | inhdone => cases h; exact absurd (inhibitDone_leds s) hl
  | timeout => cases h; exact absurd (onTimeout_leds s) hl
  | rst => exact absurd rfl hr
  | cmdReset | cmdEnable | cmdDisable | cmdSetDefault | cmdSetLeds | cmdSetTypematic | cmdReadId
  | cmdResend | ledData | typematicData => exact absurd (hostByte_leds h) hl
  | respAck => exact ⟨.inr (.inl rfl), deviceByte_toggle h hl⟩
  | respResend => exact ⟨.inr (.inr (.inl rfl)), deviceByte_toggle h hl⟩
  | respReady => exact ⟨.inr (.inr (.inr rfl)), deviceByte_toggle h hl⟩

/-! ### Which inputs change an LED bit -/

/-- A decoder that tries one row first reads that row, or what the rest of it reads. -/
theorem eq_or_eq_ok_of_ite {p : Prop} [Decidable p] {i j : Instr} {x : Except Reject Instr}
    (h : (if p then .ok j else x) = .ok i) : i = j ∨ x = .ok i := by
  split at h
  next => cases h; exact .inl rfl
  next => exact .inr h

/-- A request word's row is a transaction request or a query (30_encoding.md R112). -/
theorem decodeReq_isRequest {w : ReqWord} {i : Instr} (h : decodeReq w = .ok i) :
    i.isTransaction = true ∨ i.isQuery = true := by
  unfold decodeReq at h
  iterate 8
    obtain rfl | h := eq_or_eq_ok_of_ite h
    · exact .inl rfl
  iterate 6
    obtain rfl | h := eq_or_eq_ok_of_ite h
    · exact .inr rfl
  cases h

theorem not_fromDevice_of_isRequest {i : Instr} (h : i.isTransaction = true ∨ i.isQuery = true) :
    ¬FromDevice i := by
  rintro (⟨d, rfl⟩ | rfl | rfl | rfl) <;> simp [Instr.isTransaction, Instr.isQuery] at h

/-- An event word's row is an event; a Fall's words are 1 and 5 (30_encoding.md R131). -/
theorem decodeEvent_ok {ev : BitVec 3} {i : Instr} (h : decodeEvent ev = .ok i) :
    (ev = 1#3 ∨ ev = 5#3) ∧ (∃ d, i = .fall d) ∨ i = .inhdone ∨ i = .timeout := by
  unfold decodeEvent at h
  split_ifs at h with hk h2 hi ht <;> cases h
  · exact .inl ⟨by revert ev; decide, _, rfl⟩
  · exact .inr (.inl rfl)
  · exact .inr (.inr rfl)

theorem step_req_leds {w : ReqWord} {rest : List Input} {s t : State} (h : step s = .next t)
    (hi : s.inputs = .req w :: rest) (hl : t.blk.leds ≠ s.blk.leds) :
    ∃ x y z, decodeReq w = .ok (.kbSetleds x y z) ∧ t.blk.leds = (x, y, z) := by
  have hr := step_runnable h
  cases hd : decodeReq w with
  | error r =>
    cases (step_of_reject hr hi hd).symm.trans h
    exact absurd rfl hl
  | ok i =>
    have hx := (step_of_decode hr hi hd).symm.trans h
    have hreq := decodeReq_isRequest hd
    by_cases hs : ∃ x y z, i = .kbSetleds x y z
    · obtain ⟨x, y, z, rfl⟩ := hs
      exact ⟨x, y, z, rfl, (exec_kbSetleds_leds hx).resolve_right hl⟩
    · have hrst : i ≠ .rst := by rintro rfl; simp [Instr.isTransaction, Instr.isQuery] at hreq
      have hf := (exec_toggle hx hrst (fun x y z he => hs ⟨x, y, z, he⟩) hl).1
      exact absurd hf (not_fromDevice_of_isRequest hreq)

theorem step_event_leds {ev : BitVec 3} {rest : List Input} {s t : State} (h : step s = .next t)
    (hi : s.inputs = .event ev :: rest) (hl : t.blk.leds ≠ s.blk.leds) :
    (ev = 1#3 ∨ ev = 5#3) ∧ QuietIdle s t := by
  have hr := step_runnable h
  cases hd : decodeEvent ev with
  | error r =>
    have hx := (step_of_reject hr hi hd).symm.trans h
    simp only [onReject] at hx
    split at hx
    next => cases hx; exact absurd rfl hl
    next => cases hx
  | ok i =>
    have hx := (step_of_decode hr hi hd).symm.trans h
    obtain ⟨hev, d, rfl⟩ | rfl | rfl := decodeEvent_ok hd
    · exact ⟨hev, { edge_toggle hx hl with }⟩
    · cases hx; exact absurd (inhibitDone_leds _) hl
    · cases hx; exact absurd (onTimeout_leds _) hl

theorem step_reset_leds {r : BitVec 1} {rest : List Input} {s t : State} (h : step s = .next t)
    (hi : s.inputs = .reset r :: rest) (hl : t.blk.leds ≠ s.blk.leds) : r = 1#1 := by
  by_contra hr
  cases (step_of_reject (step_runnable h) hi (if_neg hr)).symm.trans h
  exact absurd rfl hl

theorem step_leds {s t : State} (h : step s = .next t) (hl : t.blk.leds ≠ s.blk.leds) :
    (∃ rest, s.inputs = .reset 1#1 :: rest) ∨
    (∃ w rest x y z, s.inputs = .req w :: rest ∧ decodeReq w = .ok (.kbSetleds x y z) ∧
      t.blk.leds = (x, y, z)) ∨
    (∃ i rest, s.inputs = i :: rest ∧ Expect.inbound i ∧ QuietIdle s t) := by
  have hr := step_runnable h
  cases hi : s.inputs with
  | nil =>
    cases (step_no_input hr hi).symm.trans h
    exact absurd rfl hl
  | cons i rest =>
    cases i with
    | req w =>
      obtain ⟨x, y, z, hd, hx⟩ := step_req_leds h hi hl
      exact .inr (.inl ⟨w, rest, x, y, z, rfl, hd, hx⟩)
    | event ev =>
      obtain ⟨hev, hq⟩ := step_event_leds h hi hl
      exact .inr (.inr ⟨_, rest, rfl, by simpa [Expect.inbound] using hev, hq⟩)
    | reset r =>
      obtain rfl := step_reset_leds h hi hl
      exact .inl ⟨rest, rfl⟩
    | hostCommand b => exact absurd (hostByte_leds ((step_hostCommand hr hi).symm.trans h)) hl
    | hostLedData b => exact absurd (hostByte_leds ((step_hostLedData hr hi).symm.trans h)) hl
    | hostTypematicData b =>
      exact absurd (hostByte_leds ((step_hostTypematicData hr hi).symm.trans h)) hl
    | deviceByte b =>
      have hq := deviceByte_toggle ((step_deviceByte hr hi).symm.trans h) hl
      exact .inr (.inr ⟨_, rest, rfl, .inr (.inr ⟨b, rfl⟩), { hq with }⟩)

/-- Settles O55: of the rows, and of the inputs of a step, all but these leave the LED bits; what the device brings toggles one only through the scan decoder of an idle block. -/
theorem ledBitsChangeOnlyByRequestOrDecoder :
    Obligations.LedBitsChangeOnlyByRequestOrDecoder := by
  refine ⟨fun i s t h hr hs hl => ?_, fun s t h hl => ?_⟩
  · obtain ⟨hi, hq⟩ := exec_toggle h hr hs hl
    exact ⟨hi, hq.idleBefore, hq.idleAfter, hq.clkDrv, hq.datDrv, hq.out⟩
  · obtain hr | ⟨w, rest, x, y, z, hi, hd, hx⟩ | ⟨i, rest, hi, hin, hq⟩ := step_leds h hl
    · exact .inl hr
    · simp only [Block.leds, Prod.mk.injEq] at hx
      exact .inr (.inl ⟨w, rest, x, y, z, hi, hd, hx⟩)
    · exact .inr (.inr ⟨i, rest, hi, hin, hq.idleBefore, hq.idleAfter, hq.clkDrv, hq.datDrv, hq.out⟩)

end Sys2Proof.Machine

/-! SUPPORT. Which edges read the data level (20_memory.md R82, 41_bit_sampler.md R183): none while the block transmits, so none while it pulls data low. -/

namespace Sys2Proof.Machine

@[simp] theorem exec_fall (d : Bool) (s : State) : exec (.fall d) s = edge d s := rfl

/-- In TRANSMITTING an edge presents a bit and reads none (41_bit_sampler.md R183, R184). -/
theorem edge_level_irrelevant_of_transmitting (d e : Bool) {s : State}
    (hm : s.blk.bsMode = .transmitting) : edge d s = edge e s := by
  simp only [edge, hm]

/-- Settles O21: by R54 (f) the block pulls data low in TRANSMITTING only, where no edge reads the level. -/
theorem drivenDataLevelIsNotRead : Obligations.DrivenDataLevelIsNotRead := by
  intro d s hi hd
  have hm : s.blk.bsMode = .transmitting := ((inv_iff_Inv s.blk).1 hi).f hd
  rw [exec_fall, exec_fall]
  exact edge_level_irrelevant_of_transmitting d false hm

end Sys2Proof.Machine

/-! SUPPORT. The bits of every input (30_encoding.md R104 to R113, R131): the fields of a request word, and decoding against encoding in both directions. -/

namespace Sys2Proof

/-! ### A field placed in a word -/

section
variable {n w lo : Nat} (v : BitVec n)

/-- A field reads back from where it was placed. -/
theorem extractLsb'_placed (h : lo + n ≤ w) : (v.setWidth w <<< lo).extractLsb' lo n = v := by
  ext i hi
  have hw : lo + i < w := by omega
  simp [hi, hw]

/-- A field placed elsewhere reads as 0. -/
theorem extractLsb'_placed_other {m lo' : Nat} (h : lo' + m ≤ lo ∨ lo + n ≤ lo') :
    (v.setWidth w <<< lo).extractLsb' lo' m = 0#m := by
  ext i hi
  obtain h | h := h
  · have hl : lo' + i < lo := by omega
    simp [hl]
  · simp [BitVec.getLsbD_of_ge v (lo' + i - lo) (by omega)]

end

/-! ### The fields of a request word (R109) -/

/-- A request word is its fields B, A, RSVD and OP side by side. -/
theorem append_fields (w : ReqWord) : reqB w ++ reqA w ++ reqRsvd w ++ reqOp w = w := by
  unfold reqB reqA reqRsvd reqOp
  rw [BitVec.extractLsb'_append_extractLsb'_eq_extractLsb' (show 16 = 8 + 8 from rfl),
    BitVec.extractLsb'_append_extractLsb'_eq_extractLsb' (show 8 = 4 + 4 from rfl),
    BitVec.extractLsb'_append_extractLsb'_eq_extractLsb' (show 4 = 0 + 4 from rfl)]
  exact BitVec.extractLsb'_eq_self

theorem reqWord_ext_iff {w v : ReqWord} : w = v ↔
    reqOp w = reqOp v ∧ reqRsvd w = reqRsvd v ∧ reqA w = reqA v ∧ reqB w = reqB v := by
  refine ⟨by rintro rfl; simp, fun ⟨ho, hr, ha, hb⟩ => ?_⟩
  rw [← append_fields w, ← append_fields v, ho, hr, ha, hb]

section
variable (op : BitVec 4) (a b : Byte)

theorem packReq_eq_placed : packReq op a b =
    b.setWidth 24 <<< 16 ||| a.setWidth 24 <<< 8 ||| op.setWidth 24 <<< 0 := by
  rw [packReq, BitVec.shiftLeft_zero]

@[simp] theorem reqOp_packReq : reqOp (packReq op a b) = op := by
  simp (disch := omega) only [reqOp, packReq_eq_placed, BitVec.extractLsb'_or, extractLsb'_placed,
    extractLsb'_placed_other, BitVec.zero_or]

@[simp] theorem reqRsvd_packReq : reqRsvd (packReq op a b) = 0#4 := by
  simp (disch := omega) only [reqRsvd, packReq_eq_placed, BitVec.extractLsb'_or,
    extractLsb'_placed_other, BitVec.zero_or]

@[simp] theorem reqA_packReq : reqA (packReq op a b) = a := by
  simp (disch := omega) only [reqA, packReq_eq_placed, BitVec.extractLsb'_or, extractLsb'_placed,
    extractLsb'_placed_other, BitVec.zero_or, BitVec.or_zero]

@[simp] theorem reqB_packReq : reqB (packReq op a b) = b := by
  simp (disch := omega) only [reqB, packReq_eq_placed, BitVec.extractLsb'_or, extractLsb'_placed,
    extractLsb'_placed_other, BitVec.or_zero]

end

@[simp] theorem reqOp_and (w m : ReqWord) : reqOp (w &&& m) = reqOp w &&& reqOp m :=
  BitVec.extractLsb'_and
@[simp] theorem reqRsvd_and (w m : ReqWord) : reqRsvd (w &&& m) = reqRsvd w &&& reqRsvd m :=
  BitVec.extractLsb'_and
@[simp] theorem reqA_and (w m : ReqWord) : reqA (w &&& m) = reqA w &&& reqA m :=
  BitVec.extractLsb'_and
@[simp] theorem reqB_and (w m : ReqWord) : reqB (w &&& m) = reqB w &&& reqB m :=
  BitVec.extractLsb'_and

/-- A word is put together from its own fields where RSVD is 0. -/
theorem packReq_fields {w : ReqWord} (h : reqRsvd w = 0#4) :
    packReq (reqOp w) (reqA w) (reqB w) = w := by
  simp [reqWord_ext_iff, h]

/-! ### The masks of R110's map, by the fields they test -/

theorem and_mask24 (w : ReqWord) : w &&& 0xFFFFFF#24 = w := BitVec.and_allOnes
theorem and_mask4 (x : BitVec 4) : x &&& 0xF#4 = x := BitVec.and_allOnes
theorem and_mask8 (x : Byte) : x &&& 0xFF#8 = x := BitVec.and_allOnes

theorem and_setledsMask_iff (w : ReqWord) : w &&& 0xFFF8FF#24 = 0x000005#24 ↔
    reqOp w = 0x5#4 ∧ reqRsvd w = 0#4 ∧ reqA w &&& 0xF8#8 = 0#8 ∧ reqB w = 0#8 := by
  simp only [reqWord_ext_iff, reqOp_and, reqRsvd_and, reqA_and, reqB_and]
  simp [reqOp, reqRsvd, reqA, reqB, and_mask4, and_mask8]

theorem and_typematicMask_iff (w : ReqWord) : w &&& 0x0000FF#24 = 0x000006#24 ↔
    reqOp w = 0x6#4 ∧ reqRsvd w = 0#4 := by
  simp only [reqWord_ext_iff, reqOp_and, reqRsvd_and, reqA_and, reqB_and]
  simp [reqOp, reqRsvd, reqA, reqB, and_mask4]

theorem and_xlatMask_iff (w : ReqWord) : w &&& 0xFF00FF#24 = 0x00000E#24 ↔
    reqOp w = 0xE#4 ∧ reqRsvd w = 0#4 ∧ reqB w = 0#8 := by
  simp only [reqWord_ext_iff, reqOp_and, reqRsvd_and, reqA_and, reqB_and]
  simp [reqOp, reqRsvd, reqA, reqB, and_mask4, and_mask8]

/-! ### Operand bytes -/

/-- KB_SETLEDS's operand is put together from its own bits (R110). -/
theorem ledOperand_of_bits (a : Byte) (h : a &&& 0xF8#8 = 0#8) :
    ledOperand (a.getLsbD 0) (a.getLsbD 1) (a.getLsbD 2) = a := by
  revert a; decide +kernel

theorem tmByte_eq_placed (rate : BitVec 5) (delay : BitVec 2) :
    tmByte rate delay = delay.setWidth 8 <<< 5 ||| rate.setWidth 8 <<< 0 := by
  rw [tmByte, BitVec.shiftLeft_zero]

theorem tmByte_rate (rate : BitVec 5) (delay : BitVec 2) :
    (tmByte rate delay).extractLsb' 0 5 = rate := by
  simp (disch := omega) only [tmByte_eq_placed, BitVec.extractLsb'_or, extractLsb'_placed,
    extractLsb'_placed_other, BitVec.zero_or]

theorem tmByte_delay (rate : BitVec 5) (delay : BitVec 2) :
    (tmByte rate delay).extractLsb' 5 2 = delay := by
  simp (disch := omega) only [tmByte_eq_placed, BitVec.extractLsb'_or, extractLsb'_placed,
    extractLsb'_placed_other, BitVec.or_zero]

/-! ### Decoding what was encoded -/

theorem packReq_eq_iff {op : BitVec 4} {a b : Byte} {w : ReqWord} : packReq op a b = w ↔
    op = reqOp w ∧ 0#4 = reqRsvd w ∧ a = reqA w ∧ b = reqB w := by
  simp [reqWord_ext_iff]

/-- OP is 6, so the words and masks of the rows before KB_TYPEMATIC do not accept the word. -/
theorem decodeReq_kbTypematic (a b : Byte) :
    decodeReq (packReq 0x6#4 a b) = .ok (.kbTypematic a b) := by
  simp only [decodeReq, and_setledsMask_iff, and_typematicMask_iff, packReq_eq_iff, reqOp_packReq,
    reqRsvd_packReq, reqA_packReq, reqB_packReq]
  simp [reqOp]

/-- OP is 0xE, so the words and masks of the rows before Q_XLAT do not accept the word. -/
theorem decodeReq_qXlat (k : KeyId) : decodeReq (packReq 0xE#4 k 0#8) = .ok (.qXlat k) := by
  simp only [decodeReq, and_setledsMask_iff, and_typematicMask_iff, and_xlatMask_iff,
    packReq_eq_iff, reqOp_packReq, reqRsvd_packReq, reqA_packReq, reqB_packReq]
  simp [reqOp]

theorem decodeReq_encode {c : Config} {i : Instr} {w : ReqWord} (h : encode c i = .req w) :
    decodeReq w = .ok i := by
  cases i with
  | kbSetleds x y z => cases h; revert x y z; decide
  | kbTypematic a b => cases h; exact decodeReq_kbTypematic a b
  | qXlat k => cases h; exact decodeReq_qXlat k
  | kbReset | kbEnable | kbDisable | kbDefaults | kbReadid | kbResend | qLocks | qResult | qStatus
  | qDev | qDiag => cases h; rfl
  | _ => cases h

/-- `distinct` is the library's `List.Nodup`, as a check. -/
theorem distinct_eq_true_iff {α : Type} [DecidableEq α] (l : List α) :
    distinct l = true ↔ l.Nodup := by
  induction l with
  | nil => simp [distinct]
  | cons x xs ih => simp [distinct, ih]

/-- The command bytes are distinct, so no row before the byte's own accepts it (R104). -/
theorem decodeCommand_encode {c : Config} {i : Instr} {b : Byte} (hc : c.commandsDistinct = true)
    (h : encode c i = .hostCommand b) : decodeCommand c b = .ok i := by
  rw [Config.commandsDistinct, distinct_eq_true_iff] at hc
  simp only [List.nodup_cons, List.mem_cons] at hc
  cases i with
  | cmdReset | cmdEnable | cmdDisable | cmdSetDefault | cmdSetLeds | cmdSetTypematic | cmdReadId
  | cmdResend => cases h; grind [decodeCommand]
  | _ => cases h

/-- The response codes are distinct, so no row before the byte's own accepts it (R107). -/
theorem decodeDeviceByte_encode {c : Config} {i : Instr} {b : Byte} (hc : c.respDistinct = true)
    (h : encode c i = .deviceByte b) : decodeDeviceByte c b = .ok i := by
  rw [Config.respDistinct, distinct_eq_true_iff] at hc
  simp only [List.nodup_cons, List.mem_cons] at hc
  cases i with
  | respAck | respResend | respReady => cases h; grind [decodeDeviceByte]
  | _ => cases h

theorem decodeTypematicData_encode {c : Config} {i : Instr} {b : Byte}
    (h : encode c i = .hostTypematicData b) : decodeTypematicData b = .ok i := by
  cases i with
  | typematicData rate delay =>
    cases h
    have hm : tmByte rate delay &&& 0x80#8 = 0x00#8 :=
      (Laws.EncodesToItsRow.typematicData rate delay).2 c
    rw [decodeTypematicData, if_pos hm, tmByte_rate, tmByte_delay]
  | _ => cases h

theorem decodeLedData_encode {c : Config} {i : Instr} {b : Byte}
    (h : encode c i = .hostLedData b) : decodeLedData b = .ok i := by
  cases i with
  | ledData x y z => cases h; revert x y z; decide
  | _ => cases h

theorem decodeEvent_encode {c : Config} {i : Instr} {ev : BitVec 3} (h : encode c i = .event ev) :
    decodeEvent ev = .ok i := by
  cases i with
  | fall d => cases h; cases d <;> rfl
  | inhdone | timeout => cases h; rfl
  | _ => cases h

theorem decodeReset_encode {c : Config} {i : Instr} {r : BitVec 1} (h : encode c i = .reset r) :
    decodeReset r = .ok i := by
  cases i with
  | rst => cases h; rfl
  | _ => cases h

/-- Settles O3, port by port: the fields of the encoding are the row's, and no row before it accepts them. -/
theorem decodeOfEncodeIsTheInstruction : Obligations.DecodeOfEncodeIsTheInstruction := by
  intro c i hr hc
  cases he : encode c i with
  | req w => exact decodeReq_encode he
  | event ev => exact decodeEvent_encode he
  | reset r => exact decodeReset_encode he
  | hostCommand b => exact decodeCommand_encode hc he
  | hostLedData b => exact decodeLedData_encode he
  | hostTypematicData b => exact decodeTypematicData_encode he
  | deviceByte b => exact decodeDeviceByte_encode hr he

/-! ### Encoding what was decoded -/

/-- A decoder that tries one row first reads that row where its test accepts, or what the rest of it reads. -/
theorem ite_eq_ok {p : Prop} [Decidable p] {i j : Instr} {x : Except Reject Instr}
    (h : (if p then .ok j else x) = .ok i) : (p ∧ i = j) ∨ x = .ok i := by
  split at h
  next hp => cases h; exact .inl ⟨hp, rfl⟩
  next => exact .inr h

section
variable {c : Config} {i : Instr}

theorem encode_kbSetleds_of_mask {w : ReqWord} (h : w &&& 0xFFF8FF#24 = 0x000005#24) :
    encode c (.kbSetleds ((reqA w).getLsbD 0) ((reqA w).getLsbD 1) ((reqA w).getLsbD 2))
      = .req w := by
  obtain ⟨ho, hr, ha, hb⟩ := (and_setledsMask_iff w).1 h
  simp only [encode, ledOperand_of_bits _ ha, ← ho, ← hb, packReq_fields hr]

theorem encode_kbTypematic_of_mask {w : ReqWord} (h : w &&& 0x0000FF#24 = 0x000006#24) :
    encode c (.kbTypematic (reqA w) (reqB w)) = .req w := by
  obtain ⟨ho, hr⟩ := (and_typematicMask_iff w).1 h
  simp only [encode, ← ho, packReq_fields hr]

theorem encode_qXlat_of_mask {w : ReqWord} (h : w &&& 0xFF00FF#24 = 0x00000E#24) :
    encode c (.qXlat (reqA w)) = .req w := by
  obtain ⟨ho, hr, hb⟩ := (and_xlatMask_iff w).1 h
  simp only [encode, ← ho, ← hb, packReq_fields hr]

theorem encode_of_decodeReq {w : ReqWord} (h : decodeReq w = .ok i) : encode c i = .req w := by
  unfold decodeReq at h
  iterate 4
    obtain ⟨rfl, rfl⟩ | h := ite_eq_ok h
    · rfl
  obtain ⟨hm, rfl⟩ | h := ite_eq_ok h
  · exact encode_kbSetleds_of_mask hm
  obtain ⟨hm, rfl⟩ | h := ite_eq_ok h
  · exact encode_kbTypematic_of_mask hm
  iterate 7
    obtain ⟨rfl, rfl⟩ | h := ite_eq_ok h
    · rfl
  obtain ⟨hm, rfl⟩ | h := ite_eq_ok h
  · exact encode_qXlat_of_mask hm
  cases h

theorem encode_of_decodeEvent {ev : BitVec 3} (h : decodeEvent ev = .ok i) :
    encode c i = .event ev := by
  unfold decodeEvent at h
  split_ifs at h <;> cases h
  all_goals exact congrArg Input.event (by revert ev; decide)

theorem encode_of_decodeCommand {b : Byte} (h : decodeCommand c b = .ok i) :
    encode c i = .hostCommand b := by
  unfold decodeCommand at h
  iterate 8
    obtain ⟨rfl, rfl⟩ | h := ite_eq_ok h
    · rfl
  cases h

theorem encode_of_decodeDeviceByte {b : Byte} (h : decodeDeviceByte c b = .ok i) :
    encode c i = .deviceByte b := by
  unfold decodeDeviceByte at h
  iterate 3
    obtain ⟨rfl, rfl⟩ | h := ite_eq_ok h
    · rfl
  cases h

theorem encode_of_decodeLedData {b : Byte} (h : decodeLedData b = .ok i) :
    encode c i = .hostLedData b := by
  obtain ⟨hm, rfl⟩ | h := ite_eq_ok h
  · exact congrArg Input.hostLedData (Machine.ledByte_of_bits b hm)
  · cases h

theorem encode_of_decodeTypematicData {b : Byte} (h : decodeTypematicData b = .ok i) :
    encode c i = .hostTypematicData b := by
  obtain ⟨hm, rfl⟩ | h := ite_eq_ok h
  · exact congrArg Input.hostTypematicData (Machine.tmByte_of_fields b hm)
  · cases h

theorem encode_of_decodeReset {r : BitVec 1} (h : decodeReset r = .ok i) :
    encode c i = .reset r := by
  obtain ⟨rfl, rfl⟩ | h := ite_eq_ok h
  · rfl
  · cases h

end

/-- Settles O4, port by port: each row's test and its operands together hold every bit of the input. -/
theorem encodeOfDecodeIsTheInput : Obligations.EncodeOfDecodeIsTheInput := by
  intro c i instr h
  cases i with
  | req w => exact encode_of_decodeReq h
  | event ev => exact encode_of_decodeEvent h
  | reset r => exact encode_of_decodeReset h
  | hostCommand b => exact encode_of_decodeCommand h
  | hostLedData b => exact encode_of_decodeLedData h
  | hostTypematicData b => exact encode_of_decodeTypematicData h
  | deviceByte b => exact encode_of_decodeDeviceByte h

/-! ### R110's map -/

/-- The row of a request's name accepts its encoding (R110). -/
theorem selects_of_encode {c : Config} {i : Instr} {w : ReqWord} (h : encode c i = .req w) :
    Laws.Selects i.mnemonic w := by
  cases i with
  | kbSetleds x y z => cases h; exact (Laws.EncodesToItsRow.kbSetleds x y z).2 c
  | kbTypematic a b => cases h; exact (Laws.EncodesToItsRow.kbTypematic a b).2 c
  | qXlat k => cases h; exact (Laws.EncodesToItsRow.qXlat k).2 c
  | kbReset | kbEnable | kbDisable | kbDefaults | kbReadid | kbResend | qLocks | qResult | qStatus
  | qDev | qDiag => cases h; decide
  | _ => cases h

/-- A word that a row of R110's map accepts decodes to that row's instruction. -/
theorem decodeReq_of_row {r : ReqRow} {w : ReqWord} (hr : r ∈ requestRows)
    (h : w &&& r.mask = r.pattern) : ∃ i, decodeReq w = .ok i ∧ i.mnemonic = r.mnemonic := by
  simp only [requestRows, transactionRows, queryRows, List.cons_append, List.nil_append,
    List.mem_cons, List.not_mem_nil, or_false] at hr
  rcases hr with rfl | rfl | rfl | rfl | rfl | rfl | rfl | rfl | rfl | rfl | rfl | rfl | rfl | rfl
  iterate 4
    · cases (and_mask24 w).symm.trans h
      exact ⟨_, rfl, rfl⟩
  · exact ⟨_, decodeReq_encode (encode_kbSetleds_of_mask (c := .initial) h), rfl⟩
  · exact ⟨_, decodeReq_encode (encode_kbTypematic_of_mask (c := .initial) h), rfl⟩
  iterate 7
    · cases (and_mask24 w).symm.trans h
      exact ⟨_, rfl, rfl⟩
  · exact ⟨_, decodeReq_encode (encode_qXlat_of_mask (c := .initial) h), rfl⟩

/-- Settles O2: a decoded word is the encoding of its instruction, which that row accepts; an accepted word is decoded to its row. -/
theorem requestDecodingFollowsTheMap : Obligations.RequestDecodingFollowsTheMap := by
  refine fun w => ⟨fun i h => ?_, fun r hr h => decodeReq_of_row hr h⟩
  obtain ⟨r, hr, hn, hm⟩ := selects_of_encode (encode_of_decodeReq (c := .initial) h)
  exact ⟨r, hr, hm, hn⟩

/-! ### Words and lines written out from the tables -/

/-- Settles O5: the decoder evaluates on each of the words. -/
theorem eventWordsDecode : Obligations.EventWordsDecode :=
  fun _ => ⟨rfl, rfl, rfl, rfl, rfl, rfl, rfl, rfl, rfl⟩

/-- Settles O6: the decoder evaluates on each of the words. -/
theorem specWordsDecode : Obligations.SpecWordsDecode :=
  ⟨rfl, rfl, rfl, rfl, rfl, rfl, rfl, rfl, rfl⟩

open Machine

/-- KB_SETLEDS's line places the three bits in A, as its operand byte does (R140, R110). -/
theorem inputs_kbSetleds (c : Config) (x y z : Bool) :
    Line.inputs (.kbSetleds x y z) = [encode c (.kbSetleds x y z)] := by
  cases x <;> cases y <;> cases z <;> rfl

theorem inputs_kbTypematic (c : Config) (a b : Byte) :
    Line.inputs (.kbTypematic a b) = [encode c (.kbTypematic a b)] := by
  simp only [Line.inputs, encode, packReq]
  rw [BitVec.or_comm, BitVec.or_comm (6#24), BitVec.or_assoc]
  rfl

theorem inputs_qXlat (c : Config) (k : KeyId) :
    Line.inputs (.qXlat k) = [encode c (.qXlat k)] := by
  simp [Line.inputs, encode, packReq, BitVec.or_comm]

/-- Settles O7: the lines without operands are words; each of the four others puts its operands where the encoder does. -/
theorem programLinesEncodeTheirRows : Obligations.ProgramLinesEncodeTheirRows :=
  fun c x y z a b =>
    ⟨⟨inputs_kbSetleds c x y z, inputs_kbTypematic c a b, inputs_qXlat c a, rfl⟩,
      ⟨rfl, rfl, rfl, rfl, rfl, rfl⟩, ⟨rfl, rfl, rfl, rfl, rfl⟩, ⟨rfl, rfl, rfl⟩⟩

end Sys2Proof

/-! SUPPORT. Whole bytes on the wire (30_encoding.md R141, 41_bit_sampler.md R181 to R188): a host byte and a device byte taken in one step, as the frame that crosses the wire and as the steps of its edges. -/

namespace Sys2Proof.Machine

/-! ### The eleven edges of a host byte (41_bit_sampler.md R181 to R185) -/

/-- The block while it transmits, frame bit n − 1 being the one presented (41_bit_sampler.md R183, R186). -/
def Block.presenting (n : Nat) (k : Block) : Block :=
  { k with
    clkDrv := false, datDrv := !k.txFrame.getLsbD (n - 1), txIdx := BitVec.ofNat 4 n,
    bsMode := .transmitting, seqPhase := .sending }

/-- The block after its frame was acknowledged with the level d: it awaits the response (41_bit_sampler.md R185). -/
def Block.acknowledged (c : Config) (d : Bool) (k : Block) : Block :=
  { k with
    clkDrv := false, datDrv := false, txIdx := 0#4, bsMode := .idle, seqPhase := .await,
    tNack := nackAfter c k.tNack d }

/-- InhibitDone presents frame bit 0, the start bit (41_bit_sampler.md R181). -/
theorem inhibitDone_presenting {b : Byte} {s : State} (hm : s.blk.bsMode = .inhibit)
    (hf : s.blk.txFrame = encodeFrame b) :
    inhibitDone s = s.withBlk (s.blk.presenting 1) := by
  have hb : s.blk.txFrame.getLsbD 0 = false := hf ▸ encodeFrame_startBit b
  simp only [inhibitDone, if_pos hm, Block.startFrame, Block.presenting, Nat.sub_self, hb,
    Bool.not_false]

/-- An edge presents the next bit, up to the parity bit (41_bit_sampler.md R183). -/
theorem edge_presenting (d : Bool) {n : Nat} (s : State) (h1 : 1 ≤ n) (h9 : n ≤ 9) :
    edge d (s.withBlk (s.blk.presenting n)) = .next (s.withBlk (s.blk.presenting (n + 1))) := by
  have hn : (BitVec.ofNat 4 n).toNat = n := by simp; omega
  simp [edge, Block.presenting, Block.presentBit, hn, h1, h9, BitVec.ofNat_add]

/-- The tenth edge presents the stop bit and the eleventh samples the acknowledgment (41_bit_sampler.md R184, R185). -/
theorem edges_stop_ack (d e : Bool) (s : State) :
    edges [d, e] (s.withBlk (s.blk.presenting 10))
      = .next (s.withBlk (s.blk.acknowledged s.cfg e)) := rfl

/-- TXCYCLE: the frame the block is about to send crosses the wire, and the block awaits the response (30_encoding.md R141). -/
theorem txCycle_acknowledged {b : Byte} (a : Bool) {s : State} (hm : s.blk.bsMode = .inhibit)
    (hf : s.blk.txFrame = encodeFrame b) :
    txCycle a s = .next (s.withBlk (s.blk.acknowledged s.cfg a)) := by
  rw [txCycle, inhibitDone_presenting hm hf, txLevels]
  iterate 9 rw [edges_cons, edge_presenting _ _ (by decide) (by decide), andThen_next]
  exact edges_stop_ack false a s

/-! ### Host bytes -/

theorem hostByte_on_wire {b : Byte} {s : State} (hm : s.blk.bsMode = .inhibit)
    (hf : s.blk.txFrame = encodeFrame b) : hostByte b s = txCycle false s :=
  if_pos ⟨hm, hf⟩

theorem hostByte_off_wire {b : Byte} {s : State}
    (h : ¬(s.blk.bsMode = .inhibit ∧ s.blk.txFrame = encodeFrame b)) : hostByte b s = .next s :=
  if_neg h

/-- A host byte in any of its three places (30_encoding.md R104 to R106). -/
def IsHostByte (b : Byte) (i : Input) : Prop :=
  i = .hostCommand b ∨ i = .hostLedData b ∨ i = .hostTypematicData b

/-- A row whose encoding is a host byte is that byte on the wire. -/
theorem exec_eq_hostByte {i : Instr} {b : Byte} {s : State}
    (h : IsHostByte b (encode s.cfg i)) : exec i s = hostByte b s := by
  cases i with
  | cmdReset | cmdEnable | cmdDisable | cmdSetDefault | cmdSetLeds | cmdSetTypematic | cmdReadId
  | cmdResend | ledData | typematicData =>
    obtain h | h | h := h <;> cases h
    rfl
  | _ => obtain h | h | h := h <;> cases h

/-- A host byte taken in a step, row of the table or not, is the byte on the wire. -/
theorem step_eq_hostByte {i : Input} {b : Byte} {rest : List Input} {s : State}
    (hr : runnable s = true) (h : IsHostByte b i) (hi : s.inputs = i :: rest) :
    step s = hostByte b (s.withInputs rest) := by
  obtain rfl | rfl | rfl := h
  · exact step_hostCommand hr hi
  · exact step_hostLedData hr hi
  · exact step_hostTypematicData hr hi

theorem nackAfter_false (c : Config) (old : Bool) :
    nackAfter c old false = if c.ackLevel = false then old else true := by
  cases h : c.ackLevel <;> simp [nackAfter, h]

/-- Settles O17: the row is its byte on the wire, and the byte is the TXCYCLE of its frame or nothing. -/
theorem hostBytesCrossTheWire : Obligations.HostBytesCrossTheWire := by
  intro i b s h
  rw [exec_eq_hostByte h]
  refine ⟨fun hm hf => ?_, hostByte_off_wire⟩
  rw [hostByte_on_wire hm hf, txCycle_acknowledged false hm hf, ← nackAfter_false]
  rfl

/-- Settles O58: a host byte off the wire changes nothing, whichever place it stands in. -/
theorem hostBytesOffTheWireChangeNothing : Obligations.HostBytesOffTheWireChangeNothing := by
  intro i b rest s hr h hi hn
  rw [step_eq_hostByte hr h hi]
  exact hostByte_off_wire hn

/-- Settles O18, from what eleven edges do between frames (`edges_eleven`). -/
theorem elevenEdgesDeliverTheFrame : Obligations.ElevenEdgesDeliverTheFrame := by
  intro f s h
  rw [edges_eleven f h]
  exact ⟨fun b hb => by rw [hb], fun perr serr hb => by rw [hb]; rfl⟩

/-! ### No rule reads the inputs to come -/

/-- A choice between two images under f is the image of the choice. The two sides may spell the test differently, as long as it evaluates to the same. -/
theorem ite_eq_map {α β : Type} (f : α → β) {p : Prop} {_ : Decidable p} {a b : α} {a' b' : β}
    (ha : a' = f a) (hb : b' = f b) : (if p then a' else b') = f (if p then a else b) := by
  subst ha hb
  exact (apply_ite f p a b).symm

section
variable (s : State) (is : List Input)

theorem ite_withInputs {p : Prop} {_ : Decidable p} {a b a' b' : State}
    (ha : a' = a.withInputs is) (hb : b' = b.withInputs is) :
    (if p then a' else b') = (if p then a else b).withInputs is :=
  ite_eq_map (fun t : State => t.withInputs is) ha hb

/-- The outcome with the inputs to come replaced. -/
def putInputs (r : Result) : Result := andThen r fun t => .next (t.withInputs is)

theorem resolve_withInputs (k : KeyId) (p : Bool) :
    resolve k p (s.withInputs is) = (resolve k p s).withInputs is := by
  simp only [resolve, withInputs_cfg]
  cases lockOf s.cfg k <;> rfl

theorem scanByte_withInputs (b : Byte) :
    scanByte b (s.withInputs is) = (scanByte b s).withInputs is := by
  simp only [scanByte, withInputs_cfg, withInputs_blk]
  cases matchCode s.cfg.keyTable (s.blk.scanAcc b) with
  | press k => exact resolve_withInputs (s.withBlk s.blk.clearScan) is k true
  | release k => exact resolve_withInputs (s.withBlk s.blk.clearScan) is k false
  | none => exact ite_withInputs is rfl rfl

theorem onAck_withInputs : onAck (s.withInputs is) = (onAck s).withInputs is := by
  simp only [onAck, withInputs_blk]
  cases s.blk.tKind with
  | reset | readId | generic => rfl
  | twoPhase => exact ite_withInputs is rfl rfl

theorem onResend_withInputs (b : Byte) :
    onResend b (s.withInputs is) = (onResend b s).withInputs is :=
  ite_withInputs is rfl rfl

theorem onAwaitAck_withInputs (b : Byte) :
    onAwaitAck b (s.withInputs is) = (onAwaitAck b s).withInputs is :=
  ite_withInputs is (onAck_withInputs s is) <|
    ite_withInputs is (onResend_withInputs s is b) <|
      ite_withInputs is rfl rfl

theorem onResponse_withInputs (b : Byte) :
    onResponse b (s.withInputs is) = (onResponse b s).withInputs is := by
  simp only [onResponse, onAwaitAck_withInputs, withInputs_blk]
  cases s.blk.awaitSub with
  | awAck | awId0 | awId1 => rfl
  | awReady => exact ite_withInputs is rfl rfl

theorem dispatch_withInputs (b : Byte) :
    dispatch b (s.withInputs is) = putInputs is (dispatch b s) := by
  simp only [dispatch, withInputs_blk, onResponse_withInputs, scanByte_withInputs]
  cases s.blk.seqPhase <;> rfl

theorem receiveLast_withInputs (d : Bool) :
    receiveLast d (s.withInputs is) = putInputs is (receiveLast d s) := by
  simp only [receiveLast, withInputs_blk]
  cases decodeFrame (s.blk.rxFrame d) with
  | byte b => exact dispatch_withInputs (s.withBlk s.blk.clearRx) is b
  | bad perr serr => rfl

theorem edge_withInputs (d : Bool) : edge d (s.withInputs is) = putInputs is (edge d s) := by
  simp only [edge, withInputs_blk]
  cases s.blk.bsMode with
  | inhibit => rfl
  | idle | ack => exact ite_eq_map (putInputs is) rfl rfl
  | receiving =>
    exact ite_eq_map (putInputs is) rfl
      (ite_eq_map (putInputs is) (receiveLast_withInputs s is d) rfl)
  | transmitting => exact ite_eq_map (putInputs is) rfl (ite_eq_map (putInputs is) rfl rfl)

theorem inhibitDone_withInputs :
    inhibitDone (s.withInputs is) = (inhibitDone s).withInputs is :=
  ite_withInputs is rfl rfl

end

theorem edge_withInputs_next {d : Bool} {s t : State} (is : List Input) (h : edge d s = .next t) :
    edge d (s.withInputs is) = .next (t.withInputs is) := by
  rw [edge_withInputs, h]
  rfl

/-! ### A byte in one step and edge by edge -/

/-- FALL d's event word is the row FALL d (30_encoding.md R131, R140). -/
theorem decode_fallInput (c : Config) (d : Bool) : decode c (fallInput d) = .ok (.fall d) := by
  cases d <;> rfl

theorem step_fallInput {d : Bool} {rest : List Input} {s : State} (h : runnable s = true) :
    step (s.withInputs (fallInput d :: rest)) = edge d (s.withInputs rest) :=
  step_of_decode (s := s.withInputs (fallInput d :: rest)) h rfl (decode_fallInput s.cfg d)

theorem step_inhdoneInput {rest : List Input} {s : State} (h : runnable s = true) :
    step (s.withInputs (.event 2#3 :: rest)) = .next (inhibitDone (s.withInputs rest)) :=
  step_of_decode (s := s.withInputs (.event 2#3 :: rest)) (instr := .inhdone) h rfl rfl

theorem run_succ_of_step {n : Nat} {s t : State} (h : step s = .next t) :
    Host.Core.run core (n + 1) s = Host.Core.run core n t := by
  simp only [Host.Core.run, core, h]

/-- Falling edges offered one by one, one step each, are the edges one after another (30_encoding.md R131). -/
theorem run_fallInputs (ds : List Bool) (rest : List Input) {s : State} (h : runnable s = true) :
    Host.Core.run core ds.length (s.withInputs (ds.map fallInput ++ rest))
      = edges ds (s.withInputs rest) := by
  induction ds generalizing s with
  | nil => rfl
  | cons d ds ih =>
    obtain ⟨t, ht, hr⟩ := edge_runsOn d h
    have hs := (step_fallInput h).trans (edge_withInputs_next (ds.map fallInput ++ rest) ht)
    rw [edges_cons, edge_withInputs_next rest ht, andThen_next, ← ih hr]
    exact run_succ_of_step hs

/-- Settles O19: each edge leaves the inputs behind it alone, so eleven steps take the eleven edges one by one. -/
theorem deviceByteIsItsElevenSteps : Obligations.DeviceByteIsItsElevenSteps := by
  intro b rest s hr hi
  rw [step_deviceByte hr hi]
  exact (run_fallInputs (wireBits (encodeFrame b)) rest hr).symm

/-- Settles O20: the InhibitDone is one step and the eleven edges are eleven more. -/
theorem hostByteIsItsTwelveSteps : Obligations.HostByteIsItsTwelveSteps := by
  intro i b rest s hr h hi hm hf
  have hd : step (s.withInputs ((Line.txCycle false).inputs ++ rest)) =
      .next ((inhibitDone s).withInputs ((txLevels false).map fallInput ++ rest)) :=
    (step_inhdoneInput hr).trans (congrArg _ (inhibitDone_withInputs s _))
  rw [step_eq_hostByte hr h hi, hostByte_on_wire (s := s.withInputs rest) hm hf, txCycle,
    inhibitDone_withInputs]
  exact (run_fallInputs (txLevels false) rest (runnable_inhibitDone hr)).symm.trans
    (run_succ_of_step hd).symm

end Sys2Proof.Machine

/-! SUPPORT. What a step emits (30_encoding.md R143): one item at most, because eleven edges complete at most one frame. -/

namespace Sys2Proof.Machine

/-- From s to t at most one item is emitted, and none is taken back (30_encoding.md R143). -/
def EmitsAtMostOne (s t : State) : Prop := t.out = s.out ∨ ∃ o, t.out = s.out ++ [o]

/-! ### One frame -/

theorem scanByte_emits (b : Byte) (s : State) : EmitsAtMostOne s (scanByte b s) := by
  obtain ⟨x, p, h⟩ | ⟨-, h⟩ | ⟨-, h⟩ := scanByte_cases b s <;> rw [h]
  · obtain ⟨l, -, h'⟩ | ⟨-, h'⟩ := resolve_cases x p (s.withBlk s.blk.clearScan) <;> rw [h']
    · exact .inl rfl
    · exact .inr ⟨_, rfl⟩
  · exact .inl rfl
  · exact .inl rfl

/-- A response emits nothing, or it ends the transaction and leaves the receive path as it is. -/
theorem onResponse_emits (b : Byte) (s : State) :
    (onResponse b s).out = s.out ∨
      (∃ o, (onResponse b s).out = s.out ++ [o]) ∧
        (s.blk.RxReady → (onResponse b s).blk.RxReady) := by
  obtain ⟨-, -, h⟩ | ⟨-, -, h⟩ | ⟨-, h⟩ | ⟨-, -, -, h⟩ | ⟨-, -, h⟩ | ⟨c, x, -, -, -, h⟩ | ⟨id, h⟩ :=
    onResponse_cases b s <;> rw [h]
  · exact .inl rfl
  · exact .inl rfl
  · exact .inl rfl
  · exact .inl rfl
  · exact .inl rfl
  · exact .inr ⟨⟨_, rfl⟩, fun hr => hr⟩
  · exact .inr ⟨⟨_, rfl⟩, fun hr => hr⟩

/-- An edge that emits something emits one item and ends a frame. -/
theorem edge_emits {d : Bool} {s t : State} (h : edge d s = .next t) :
    t.out = s.out ∨ (∃ o, t.out = s.out ++ [o]) ∧ t.blk.RxReady := by
  obtain ⟨-, -, rfl⟩ | ⟨-, -, h⟩ | ⟨-, rfl⟩ | ⟨-, -, -, rfl⟩ | ⟨-, -, rfl⟩ | ⟨-, -, rfl⟩ :=
    edge_cases h
  · exact .inl rfl
  · obtain ⟨b, -, h⟩ | ⟨p, q, -, rfl⟩ := receiveLast_cases h
    · obtain ⟨-, rfl⟩ | ⟨-, rfl⟩ := dispatch_cases h
      · exact (onResponse_emits b _).imp_right (And.imp_right fun hr => hr ⟨rfl, rfl⟩)
      · have hs := scanByte_sameLine b (s.withBlk s.blk.clearRx)
        exact (scanByte_emits b _).imp_right fun ho => ⟨ho, hs.bsMode, hs.rxIdx⟩
    · exact .inl rfl
  · exact .inl rfl
  · exact .inl rfl
  · exact .inl rfl
  · exact .inl rfl

/-! ### Eleven edges, a row, an input of no row, a step -/

/-- After the edge that emits, ten more edges complete no other frame. -/
theorem edges_emits {ds : List Bool} {s t : State} (hn : ds.length ≤ 11)
    (h : edges ds s = .next t) : EmitsAtMostOne s t := by
  induction ds generalizing s with
  | nil => cases h; exact .inl rfl
  | cons d ds ih =>
    simp only [List.length_cons] at hn
    obtain ⟨u, hu, h⟩ := andThen_eq_next h
    obtain ho | ⟨⟨o, ho⟩, hr⟩ := edge_emits hu
    · rw [EmitsAtMostOne, ← ho]
      exact ih (by omega) h
    · obtain ⟨v, i, m, rfl⟩ := edges_of_rxReady hr (by omega) h
      exact .inr ⟨o, ho⟩

theorem deviceByte_emits {b : Byte} {s t : State} (h : deviceByte b s = .next t) :
    EmitsAtMostOne s t :=
  edges_emits (ds := wireBits (encodeFrame b)) (Nat.le_refl 11) h

@[simp] theorem inhibitDone_out (s : State) : (inhibitDone s).out = s.out := by
  unfold inhibitDone; split <;> rfl

theorem hostByte_emits {b : Byte} {s t : State} (h : hostByte b s = .next t) :
    EmitsAtMostOne s t := by
  unfold hostByte at h
  split at h
  next =>
    rw [EmitsAtMostOne, ← inhibitDone_out s]
    exact edges_emits (ds := txLevels false) (Nat.le_refl 11) h
  next => cases h; exact .inl rfl

theorem respond_emits {w : RespWord} {s t : State} (h : respond w s = .next t) :
    EmitsAtMostOne s t := by
  cases h
  exact .inr ⟨_, rfl⟩

theorem onTimeout_emits (s : State) : EmitsAtMostOne s (onTimeout s) := by
  unfold onTimeout
  split
  next => exact .inl rfl
  next => exact .inr ⟨_, rfl⟩

theorem offer_out {w : ReqWord} {f : State → State} {s t : State} (h : offer w f s = .next t)
    (hf : ∀ u, (f u).out = u.out) : t.out = s.out := by
  obtain ⟨-, -, ho⟩ | ⟨held, ho⟩ := offer_cases w f s <;> cases ho.symm.trans h
  · exact hf _
  · rfl

theorem exec_emits {i : Instr} {s t : State} (h : exec i s = .next t) : EmitsAtMostOne s t := by
  cases i with
  | kbReset | kbEnable | kbDisable | kbDefaults | kbSetleds | kbTypematic | kbReadid | kbResend =>
    simp only [exec, execKbReset, execKbEnable, execKbDisable, execKbDefaults, execKbSetleds,
      execKbTypematic, execKbReadid, execKbResend] at h
    exact .inl (offer_out h fun _ => rfl)
  | qLocks | qResult | qStatus | qDev | qDiag | qXlat => exact respond_emits h
  | fall d => exact (edge_emits h).imp_right And.left
  | inhdone => cases h; exact .inl (inhibitDone_out s)
  | timeout => cases h; exact onTimeout_emits s
  | rst => cases h; exact .inl rfl
  | cmdReset | cmdEnable | cmdDisable | cmdSetDefault | cmdSetLeds | cmdSetTypematic | cmdReadId
  | cmdResend | ledData | typematicData => exact hostByte_emits h
  | respAck | respResend | respReady => exact deviceByte_emits h

theorem onReject_emits {i : Input} {r : Reject} {s t : State} (h : onReject i r s = .next t) :
    EmitsAtMostOne s t := by
  cases i with
  | req w => exact respond_emits h
  | event ev =>
    simp only [onReject] at h
    split at h
    next => cases h; exact .inl rfl
    next => cases h
  | reset b => cases h; exact .inl rfl
  | hostCommand b | hostLedData b | hostTypematicData b => exact hostByte_emits h
  | deviceByte b => exact deviceByte_emits h

/-- Settles O51: a step runs one row or one input of no row, and each of them emits at most one item. -/
theorem stepsEmitAtMostOneItem : Obligations.StepsEmitAtMostOneItem := by
  intro s t h
  have hr := step_runnable h
  cases hi : s.inputs with
  | nil =>
    cases (step_no_input hr hi).symm.trans h
    exact .inl rfl
  | cons i rest =>
    cases hd : decode s.cfg i with
    | ok instr =>
      exact exec_emits (s := s.withInputs rest) ((step_of_decode hr hi hd).symm.trans h)
    | error r =>
      exact onReject_emits (s := s.withInputs rest) ((step_of_reject hr hi hd).symm.trans h)

/-! ### Where a step stops or has nothing to do -/

theorem step_of_not_runnable {s : State} (h : runnable s = false) : step s = stopReason s := by
  simp [step, h]

/-- Settles O44: what does not run stops for its reason; the other clauses are a step without input and steps of inputs of no row. -/
theorem stepStopsWhereTheSpecSays : Obligations.StepStopsWhereTheSpecSays := by
  intro s rest ev
  refine ⟨fun hc => ?_, fun hc hk => ?_, step_no_input, fun hr hi => ?_, fun hr hi => ?_,
    fun hr hi hev => ?_⟩
  · rw [step_of_not_runnable (by simp [runnable, hc]), stopReason, hc]
    rfl
  · rw [step_of_not_runnable (by simp [runnable, hk]), stopReason, hc]
    rfl
  · exact step_of_reject hr hi rfl
  · exact step_of_reject hr hi rfl
  · obtain rfl | rfl | rfl := hev <;> exact step_of_reject hr hi rfl

end Sys2Proof.Machine

/-! SUPPORT. The response words of the queries (30_encoding.md R117 to R120): a word of disjoint fields is the sum of its fields at their places, and a field reads back as it was placed. -/

namespace Sys2Proof.Machine

/-! ### A word as a number -/

theorem field_eq_ofNat {n : Nat} (v : BitVec n) (lo : Nat) :
    field v lo = BitVec.ofNat 32 (2 ^ lo * v.toNat) := by
  apply BitVec.eq_of_toNat_eq
  simp [field, Nat.shiftLeft_eq, Nat.mul_comm]

theorem field_zero {n : Nat} (v : BitVec n) : field v 0 = BitVec.ofNat 32 v.toNat := by
  simp [field_eq_ofNat]

/-- A field placed above a number adds its value at its place. -/
theorem ofNat_or_field {n x lo : Nat} (v : BitVec n) (h : x < 2 ^ lo) :
    BitVec.ofNat 32 x ||| field v lo = BitVec.ofNat 32 (x + 2 ^ lo * v.toNat) := by
  rw [field_eq_ofNat, ← BitVec.ofNat_or, Nat.or_comm, ← Nat.two_pow_add_eq_or_of_lt h,
    Nat.add_comm]

theorem toNat_ofBool (v : Bool) : (BitVec.ofBool v).toNat = Expect.bit v := by
  cases v <;> rfl

theorem bit_lt_two (v : Bool) : Expect.bit v < 2 := by
  cases v <;> decide

/-- The Q_LOCKS word (R118). -/
theorem locksWord_eq (k : Block) : locksWord k = BitVec.ofNat 32
    (Expect.bit k.ledCaps + 2 * Expect.bit k.ledNum + 4 * Expect.bit k.ledScroll) := by
  have hc := bit_lt_two k.ledCaps
  have hn := bit_lt_two k.ledNum
  simp (disch := omega) only [locksWord, flag, field_zero, ofNat_or_field, toNat_ofBool,
    Nat.reducePow]

/-- The Q_DEV word (R119). -/
theorem devWord_eq (k : Block) : devWord k = BitVec.ofNat 32
    (k.tmRate.toNat + 32 * k.tmDelay.toNat + 256 * Expect.bit k.relCaps
      + 512 * Expect.bit k.relNum + 1024 * Expect.bit k.relScroll + 65536 * k.devId.toNat) := by
  have hr := k.tmRate.isLt
  have hd := k.tmDelay.isLt
  have hc := bit_lt_two k.relCaps
  have hn := bit_lt_two k.relNum
  have hs := bit_lt_two k.relScroll
  simp (disch := omega) only [devWord, flag, field_zero, ofNat_or_field, toNat_ofBool,
    Nat.reducePow]

/-- The Q_DIAG word (R120). -/
theorem diagWord_eq (k : Block) : diagWord k = BitVec.ofNat 32
    (k.perrCnt.toNat + 256 * k.serrCnt.toNat + 65536 * k.desyncCnt.toNat
      + 16777216 * k.sbLen.toNat) := by
  have hp := k.perrCnt.isLt
  have hs := k.serrCnt.isLt
  have hd := k.desyncCnt.isLt
  simp (disch := omega) only [diagWord, field_zero, ofNat_or_field, Nat.reducePow]

/-- Settles O40: each word is the sum of its disjoint fields, and each query answers its word. -/
theorem readbackWordsHoldTheirFields : Obligations.ReadbackWordsHoldTheirFields := by
  intro s
  rw [← locksWord_eq, ← devWord_eq, ← diagWord_eq]
  exact ⟨rfl, rfl, rfl, rfl⟩

/-! ### The fields of a word -/

theorem getLsbD_field {n : Nat} (v : BitVec n) (lo i : Nat) :
    (field v lo).getLsbD i = (decide (i < 32) && decide (lo ≤ i) && v.getLsbD (i - lo)) := by
  by_cases hi : i < 32 <;> by_cases hl : lo ≤ i <;> simp [field, hi, hl]

theorem getLsbD_flag_same (v : Bool) {lo : Nat} (h : lo < 32) : (flag v lo).getLsbD lo = v := by
  rw [flag, getLsbD_field]
  simp [h]

theorem getLsbD_field_other {n : Nat} (v : BitVec n) {lo i : Nat} (h : i < lo ∨ lo + n ≤ i) :
    (field v lo).getLsbD i = false := by
  rw [getLsbD_field]
  obtain h | h := h
  · simp [Nat.not_le.2 h]
  · simp [BitVec.getLsbD_of_ge v (i - lo) (by omega)]

theorem getLsbD_flag_other (v : Bool) {lo i : Nat} (h : i ≠ lo) : (flag v lo).getLsbD i = false :=
  getLsbD_field_other _ (by omega)

theorem extract_field_same {n : Nat} (v : BitVec n) {lo : Nat} (h : lo + n ≤ 32) :
    (field v lo).extractLsb' lo n = v :=
  extractLsb'_placed v h

theorem extract_field_other {n m : Nat} (v : BitVec n) {lo lo' : Nat}
    (h : lo' + m ≤ lo ∨ lo + n ≤ lo') : (field v lo).extractLsb' lo' m = 0#m :=
  extractLsb'_placed_other v h

theorem extract_flag_other (v : Bool) {lo lo' m : Nat} (h : lo' + m ≤ lo ∨ lo < lo') :
    (flag v lo).extractLsb' lo' m = 0#m :=
  extract_field_other _ h

theorem phase_num (p : SeqPhase) : p.num.toNat = Expect.phaseNumber p := by cases p <;> rfl
theorem await_num (a : AwaitSub) : a.num.toNat = Expect.awaitNumber a := by cases a <;> rfl
theorem mode_num (m : BsMode) : m.num.toNat = Expect.modeNumber m := by cases m <;> rfl
theorem kind_num (k : TKind) : k.num.toNat = Expect.kindNumber k := by cases k <;> rfl

/-- Settles O41: each field reads back from the status word, the others being disjoint from it. -/
theorem statusWordHoldsItsFields : Obligations.StatusWordHoldsItsFields := by
  intro s
  refine ⟨statusWord s.blk, rfl, ?_⟩
  rw [← phase_num, ← await_num, ← mode_num, ← kind_num]
  simp (disch := omega) only [statusWord, BitVec.extractLsb'_or, BitVec.getLsbD_or,
    extract_field_same, extract_field_other, extract_flag_other, getLsbD_flag_same,
    getLsbD_flag_other, getLsbD_field_other]
  simp

end Sys2Proof.Machine

/-! SUPPORT. The framer (40_framer.md): where the bits of a frame stand, the parity bit as a count of ones, and the parity check as a linear function of the frame, which says at once what every flipped bit does to it. -/

namespace Sys2Proof.Machine

/-! ### Where each bit of a frame stands -/

/-- The data bits of the frame are the byte; the parity bit and the stop bit stand above them. -/
theorem encodeFrame_data (b : Byte) : (encodeFrame b).extractLsb' 1 8 = b := by
  have stop : (1#11 <<< 10).extractLsb' 1 8 = 0#8 := by decide
  simp (disch := omega) only [encodeFrame, BitVec.extractLsb'_or, stop, extractLsb'_placed,
    extractLsb'_placed_other, BitVec.zero_or]

theorem encodeFrame_dataBit (b : Byte) {i : Nat} (h : i < 8) :
    (encodeFrame b).getLsbD (i + 1) = b.getLsbD i := by
  have hd := congrArg (BitVec.getLsbD · i) (encodeFrame_data b)
  simpa [h, Nat.add_comm 1 i] using hd

theorem encodeFrame_parityBit (b : Byte) : (encodeFrame b).getLsbD 9 = parity b := by
  simp [encodeFrame]

theorem encodeFrame_stopBit (b : Byte) : (encodeFrame b).getLsbD 10 = true := by
  simp [encodeFrame]

/-- Settles O8, bit by bit; R150's three values are evaluated. -/
theorem frameHoldsStartDataParityStop : Obligations.FrameHoldsStartDataParityStop :=
  ⟨fun b => ⟨encodeFrame_startBit b, fun _ hi => encodeFrame_dataBit b hi,
    encodeFrame_parityBit b, encodeFrame_stopBit b⟩, by decide⟩

/-! ### The parity bit and the number of ones -/

/-- The exclusive or of `p` over a list. -/
def xorOver {α : Type} (p : α → Bool) (l : List α) : Bool := l.foldr (fun x v => p x ^^ v) false

/-- The exclusive or of two predicates over a list splits. -/
theorem xorOver_xor {α : Type} (p q : α → Bool) (l : List α) :
    xorOver (fun x => p x ^^ q x) l = (xorOver p l ^^ xorOver q l) := by
  induction l with
  | nil => rfl
  | cons x l ih =>
    simp only [xorOver, List.foldr_cons] at ih ⊢
    rw [ih, Bool.xor_assoc, Bool.xor_left_comm (q x), ← Bool.xor_assoc]

theorem bit_not (v : Bool) : Expect.bit (!v) = 1 - Expect.bit v := by cases v <;> rfl

/-- The exclusive or is the parity of the number of elements where `p` holds. -/
theorem bit_xorOver {α : Type} (p : α → Bool) (l : List α) :
    Expect.bit (xorOver p l) = (l.filter p).length % 2 := by
  induction l with
  | nil => rfl
  | cons x l ih =>
    have hx : xorOver p (x :: l) = (p x ^^ xorOver p l) := rfl
    rw [hx, List.filter_cons]
    cases p x with
    | false => simpa using ih
    | true =>
      rw [Bool.true_xor, bit_not, ih, if_pos rfl, List.length_cons]
      omega

theorem parity_eq_not_xorOver (b : Byte) : parity b = !xorOver b.getLsbD (List.range 8) := by
  simp [parity, xorOver, List.range_succ]

/-- Settles O9: the parity bit negates the exclusive or of the bits, which is the parity of their number of ones. -/
theorem parityMakesTheCountOdd : Obligations.ParityMakesTheCountOdd := by
  intro b
  have h : Expect.bit (parity b) = 1 - Expect.popcount b % 2 := by
    rw [parity_eq_not_xorOver, bit_not, bit_xorOver, Expect.popcount]
  omega

/-! ### The parity check of a frame -/

/-- The exclusive or of the parity bit and the data bits: the number of ones among frame bits 1 to 9 is odd. -/
def oddOnes (f : Frame) : Bool := xorOver f.getLsbD (9 :: List.range' 1 8)

theorem oddOnes_xor (f g : Frame) : oddOnes (f ^^^ g) = (oddOnes f ^^ oddOnes g) := by
  have h : (f ^^^ g).getLsbD = fun i => f.getLsbD i ^^ g.getLsbD i := funext fun _ =>
    BitVec.getLsbD_xor
  rw [oddOnes, h, xorOver_xor, oddOnes, oddOnes]

/-- R152's parity error is an even number of ones among frame bits 1 to 9. -/
theorem parityBit_bne (f : Frame) :
    (f.getLsbD 9 != parity (f.extractLsb' 1 8)) = !oddOnes f := by
  simp [parity_eq_not_xorOver, oddOnes, xorOver, List.range_succ, List.range']

theorem decodeFrame_eq (f : Frame) : decodeFrame f =
    if oddOnes f && f.getLsbD 10 then .byte (f.extractLsb' 1 8)
    else .bad (!oddOnes f) (!f.getLsbD 10) := by
  simp only [decodeFrame, parityBit_bne, Bool.bne_true, Bool.not_not]

theorem oddOnes_encodeFrame (b : Byte) : oddOnes (encodeFrame b) = true := by
  have h := parityBit_bne (encodeFrame b)
  rw [encodeFrame_data, encodeFrame_parityBit, bne_self_eq_false] at h
  simpa using h.symm

/-- What flipping the bits of `e` does to a byte's frame: the parity check fails exactly if `e` holds an odd number of frame bits 1 to 9, the stop check exactly if it holds bit 10. -/
theorem decodeFrame_flip (b : Byte) (e : Frame) : decodeFrame (encodeFrame b ^^^ e) =
    if oddOnes e || e.getLsbD 10 then .bad (oddOnes e) (e.getLsbD 10)
    else .byte (b ^^^ e.extractLsb' 1 8) := by
  rw [decodeFrame_eq, oddOnes_xor, oddOnes_encodeFrame, BitVec.getLsbD_xor, encodeFrame_stopBit,
    BitVec.extractLsb'_xor, encodeFrame_data]
  cases oddOnes e <;> cases e.getLsbD 10 <;> rfl

/-- Each of frame bits 1 to 9 counts in the parity check. -/
theorem oddOnes_bit {i : Nat} (h1 : 1 ≤ i) (h9 : i ≤ 9) : oddOnes (1#11 <<< i) = true := by
  interval_cases i <;> rfl

theorem stopBit_bit {i : Nat} (h : i ≤ 9) : (1#11 <<< i).getLsbD 10 = false := by
  have : 10 - i ≠ 0 := by omega
  simp [this]

theorem decodeFrame_singleFlip (b : Byte) {i : Nat} (h1 : 1 ≤ i) (h9 : i ≤ 9) :
    decodeFrame (encodeFrame b ^^^ (1#11 <<< i)) = .bad true false := by
  rw [decodeFrame_flip, oddOnes_bit h1 h9, stopBit_bit h9]
  rfl

/-- Two flips cancel in the parity check, so the frame decodes to the byte with the flipped data bits in it. -/
theorem decodeFrame_doubleFlip (b : Byte) {i j : Nat} (hi : 1 ≤ i) (hi9 : i ≤ 9) (hj : 1 ≤ j)
    (hj9 : j ≤ 9) : decodeFrame (encodeFrame b ^^^ (1#11 <<< i) ^^^ (1#11 <<< j))
      = .byte (b ^^^ ((1#11 <<< i) ^^^ (1#11 <<< j)).extractLsb' 1 8) := by
  rw [BitVec.xor_assoc, decodeFrame_flip, oddOnes_xor, BitVec.getLsbD_xor, oddOnes_bit hi hi9,
    oddOnes_bit hj hj9, stopBit_bit hi9, stopBit_bit hj9]
  rfl

theorem decodeFrame_encodeFrame (b : Byte) : decodeFrame (encodeFrame b) = .byte b := by
  rw [decodeFrame_eq, oddOnes_encodeFrame, encodeFrame_stopBit, encodeFrame_data]
  rfl

theorem decodeFrame_stopFlip (b : Byte) :
    decodeFrame (encodeFrame b ^^^ (1#11 <<< 10)) = .bad false true := by
  rw [decodeFrame_flip]
  rfl

theorem decodeFrame_startFlip (b : Byte) :
    decodeFrame (encodeFrame b ^^^ (1#11 <<< 0)) = .byte b := by
  rw [decodeFrame_flip]
  exact congrArg Decoded.byte BitVec.xor_zero

/-- Settles O10: the parity check is linear, so each flip acts on it by itself, whatever the byte. -/
theorem framerDetectsSingleErrors : Obligations.FramerDetectsSingleErrors := fun b =>
  ⟨decodeFrame_encodeFrame b, decodeFrame_singleFlip b (by decide) (by decide),
    fun _ => decodeFrame_singleFlip b, decodeFrame_stopFlip b, decodeFrame_startFlip b,
    fun _ _ hi hi9 hj hj9 _ => ⟨_, decodeFrame_doubleFlip b hi hi9 hj hj9⟩⟩

end Sys2Proof.Machine

/-! SUPPORT. The bit sampler, row by row of 41_bit_sampler.md R170's table: what one edge and one InhibitDone do in each mode, and the frame bits that the edges of a transmit present. -/

namespace Sys2Proof.Machine

/-! ### Receiving (41_bit_sampler.md R171, R172) -/

/-- Settles O11: the edge stores the level by `setBit`, which writes the one bit at RX_IDX. -/
theorem edgeStoresTheReceivedBit : Obligations.EdgeStoresTheReceivedBit := by
  intro d s hm hi
  refine ⟨setBit s.blk.rxShift s.blk.rxIdx.toNat d, fun j _ => ?_, ?_⟩
  · exact setBit_get _ d j (by omega)
  · rw [exec_fall, edge_receiveBit d hm hi]
    rfl

/-- The completed frame has the last level in its stop bit's place (41_bit_sampler.md R172). -/
theorem rxFrame_eq_ite (d : Bool) (k : Block) :
    k.rxFrame d = k.rxShift ||| (if d then 0x400#11 else 0#11) := by
  cases d <;> rfl

theorem receiveLast_of_byte {d : Bool} {b : Byte} {s : State}
    (h : decodeFrame (s.blk.rxFrame d) = .byte b) :
    receiveLast d s = dispatch b (s.withBlk s.blk.clearRx) := by
  rw [receiveLast, h]

theorem receiveLast_of_bad {d perr serr : Bool} {s : State}
    (h : decodeFrame (s.blk.rxFrame d) = .bad perr serr) :
    receiveLast d s = .next (s.withBlk (s.blk.clearRx.countBad perr serr)) := by
  rw [receiveLast, h]

/-- Settles O12: the edge is the frame's last, and the frame decodes to a byte or to its errors. -/
theorem lastEdgeDeliversOrCounts : Obligations.LastEdgeDeliversOrCounts := by
  intro d s f hm hi hf
  rw [← rxFrame_eq_ite] at hf
  subst hf
  rw [exec_fall, edge_receiveLast d hm (congrArg BitVec.toNat hi)]
  exact ⟨fun _ => receiveLast_of_byte, fun _ _ => receiveLast_of_bad⟩

/-! ### The inhibit (41_bit_sampler.md R174, R181, R182) -/

@[simp] theorem exec_inhdone (s : State) : exec .inhdone s = .next (inhibitDone s) := rfl

theorem edge_of_inhibit (d : Bool) {s : State} (hm : s.blk.bsMode = .inhibit) :
    edge d s = .next s := by
  simp only [edge, hm]

theorem inhibitDone_of_inhibit {s : State} (hm : s.blk.bsMode = .inhibit) :
    inhibitDone s = s.withBlk s.blk.startFrame := if_pos hm

theorem inhibitDone_of_not_inhibit {s : State} (hm : s.blk.bsMode ≠ .inhibit) :
    inhibitDone s = s := if_neg hm

/-- Settles O13: in INHIBIT no edge is read, and outside it no InhibitDone. -/
theorem strayEdgesAndTimersChangeNothing : Obligations.StrayEdgesAndTimersChangeNothing := by
  intro d s
  rw [exec_fall, exec_inhdone]
  exact ⟨edge_of_inhibit d, fun hm => congrArg _ (inhibitDone_of_not_inhibit hm)⟩

/-- Settles O14: InhibitDone starts the frame. -/
theorem inhibitDonePutsOutTheStartBit : Obligations.InhibitDonePutsOutTheStartBit := by
  intro s hm
  rw [exec_inhdone, inhibitDone_of_inhibit hm]
  rfl

/-! ### Transmitting (41_bit_sampler.md R183 to R185) -/

theorem edge_presentBit (d : Bool) {s : State} (hm : s.blk.bsMode = .transmitting)
    (h1 : 1 ≤ s.blk.txIdx.toNat) (h9 : s.blk.txIdx.toNat ≤ 9) :
    edge d s = .next (s.withBlk s.blk.presentBit) := by
  simp only [edge, hm, h1, h9, and_self, if_true]

theorem edge_presentStop (d : Bool) {s : State} (hm : s.blk.bsMode = .transmitting)
    (hi : s.blk.txIdx = 10#4) : edge d s = .next (s.withBlk s.blk.presentStop) := by
  simp [edge, hm, hi]

theorem edge_sampleAck (d : Bool) {s : State} (hm : s.blk.bsMode = .ack)
    (hi : s.blk.txIdx = 11#4) : edge d s = .next (s.withBlk (s.blk.sampleAck s.cfg d)) := by
  simp [edge, hm, hi]

theorem nackAfter_eq_ite (c : Config) (old d : Bool) :
    nackAfter c old d = if d = c.ackLevel then old else true := by
  by_cases h : d = c.ackLevel <;> simp [nackAfter, h]

/-- Settles O15: one edge rule for each range of TX_IDX. -/
theorem transmitEdgesPresentBitsThenSampleAck :
    Obligations.TransmitEdgesPresentBitsThenSampleAck := by
  intro d s
  rw [exec_fall]
  refine ⟨edge_presentBit d, edge_presentStop d, fun hm hi => ?_⟩
  rw [edge_sampleAck d hm hi, ← nackAfter_eq_ite]
  rfl

/-! ### The bits of a frame in order (41_bit_sampler.md R186) -/

/-- The block while it presents frame bit n: the stop bit, n = 10, is presented in ACK and every other bit in TRANSMITTING (41_bit_sampler.md R183, R184). -/
def Block.presentingBit (n : Nat) (k : Block) : Block :=
  { k.presenting (n + 1) with bsMode := if n < 10 then .transmitting else .ack }

theorem presentingBit_of_lt {n : Nat} (h : n < 10) (k : Block) :
    k.presentingBit n = k.presenting (n + 1) := by
  simp only [Block.presentingBit, if_pos h]
  rfl

/-- Releasing data presents the stop bit, which is 1 (41_bit_sampler.md R184). -/
theorem presentStop_presenting {k : Block} (h : k.txFrame.getLsbD 10 = true) :
    (k.presenting 10).presentStop = k.presentingBit 10 := by
  simp [Block.presentStop, Block.presentingBit, Block.presenting, h]

/-- An edge presents the next bit of the frame, up to the stop bit. -/
theorem edge_presentingBit (d : Bool) {n : Nat} {s : State}
    (hstop : s.blk.txFrame.getLsbD 10 = true) (hn : n < 10) :
    edge d (s.withBlk (s.blk.presentingBit n))
      = .next (s.withBlk (s.blk.presentingBit (n + 1))) := by
  rw [presentingBit_of_lt hn]
  obtain h9 | rfl : n + 1 < 10 ∨ n = 9 := by omega
  · rw [presentingBit_of_lt h9]
    exact edge_presenting d s (by omega) (by omega)
  · rw [edge_presentStop d rfl rfl, ← presentStop_presenting hstop]
    rfl

/-- Each of the edges presents one bit more, whatever its level. -/
theorem edges_presentingBit (ds : List Bool) {n : Nat} {s : State}
    (hstop : s.blk.txFrame.getLsbD 10 = true) (hn : n + ds.length ≤ 10) :
    edges ds (s.withBlk (s.blk.presentingBit n))
      = .next (s.withBlk (s.blk.presentingBit (n + ds.length))) := by
  induction ds generalizing n with
  | nil => rfl
  | cons d ds ih =>
    rw [List.length_cons] at hn ⊢
    rw [edges_cons, edge_presentingBit d hstop (by omega), andThen_next, ih (by omega),
      Nat.add_right_comm, Nat.add_assoc]

/-- Settles O16: InhibitDone presents bit 0, and each edge the next bit. -/
theorem hostFrameBitsAppearInOrder : Obligations.HostFrameBitsAppearInOrder := by
  intro b s ds hm hf hlen
  have hstop : s.blk.txFrame.getLsbD 10 = true := hf ▸ encodeFrame_stopBit b
  have hrun : edges ds (inhibitDone s) = .next (s.withBlk (s.blk.presentingBit ds.length)) := by
    rw [inhibitDone_presenting hm hf, ← presentingBit_of_lt (by decide)]
    simpa using edges_presentingBit ds hstop (n := 0) (by omega)
  exact ⟨_, hrun, by rw [← hf]; rfl, rfl, rfl, rfl⟩

end Sys2Proof.Machine

/-! SUPPORT. The transaction requests at the port (42_sequencer.md R200 to R209): each is offered with one word, accepted while the sequencer is idle with its whole block written, and held while it is busy. -/

namespace Sys2Proof.Machine

/-! ### The operands' numbers -/

theorem ledByte_eq_ofNat (x y z : Bool) : ledByte x y z =
    BitVec.ofNat 8 (4 * Expect.bit x + 2 * Expect.bit y + Expect.bit z) := by
  cases x <;> cases y <;> cases z <;> rfl

theorem substRate_eq_ofNat (r : Byte) : substRate r = BitVec.ofNat 5 (Expect.rate r) := by
  by_cases h : r.toNat ≤ 0x1F <;> simp [substRate, Expect.rate, BitVec.le_def, h, tmRateDefault]

theorem substDelay_eq_ofNat (d : Byte) : substDelay d = BitVec.ofNat 2 (Expect.delay d) := by
  by_cases h : d.toNat ≤ 3 <;> simp [substDelay, Expect.delay, BitVec.le_def, h, tmDelayDefault]

theorem rate_lt (r : Byte) : Expect.rate r < 2 ^ 5 := by
  unfold Expect.rate
  split <;> omega

theorem delay_lt (d : Byte) : Expect.delay d < 2 ^ 2 := by
  unfold Expect.delay
  split <;> omega

/-- The data byte is the sum of its two fields at their places (30_encoding.md R106). -/
theorem tmByte_eq_ofNat (rate : BitVec 5) (delay : BitVec 2) :
    tmByte rate delay = BitVec.ofNat 8 (32 * delay.toNat + rate.toNat) := by
  revert rate delay; decide

theorem tmByte_subst (r d : Byte) : tmByte (substRate r) (substDelay d) =
    BitVec.ofNat 8 (32 * Expect.delay d + Expect.rate r) := by
  rw [tmByte_eq_ofNat, substRate_eq_ofNat, substDelay_eq_ofNat, BitVec.toNat_ofNat,
    BitVec.toNat_ofNat, Nat.mod_eq_of_lt (rate_lt r), Nat.mod_eq_of_lt (delay_lt d)]

/-! ### A request on the port -/

/-- A transaction request is offered under its word, and its acceptance writes the block of 42_sequencer.md R202 to R209. -/
theorem exec_eq_offer {i : Instr} {w : ReqWord} {s : State} (hi : i.isTransaction = true)
    (he : encode s.cfg i = .req w) :
    exec i s = offer w (fun t => t.withBlk (Expect.accepted t.cfg t.blk i)) s := by
  cases i with
  | kbReset | kbEnable | kbDisable | kbDefaults | kbReadid | kbResend => cases he; rfl
  | kbSetleds x y z =>
    cases he
    simp only [exec, execKbSetleds, ledByte_eq_ofNat]
    rfl
  | kbTypematic r d =>
    cases he
    simp only [exec, execKbTypematic, tmByte_subst]
    simp only [substRate_eq_ofNat, substDelay_eq_ofNat]
    rfl
  | _ => cases hi

theorem exec_accepted {i : Instr} {w : ReqWord} {s : State} (hi : i.isTransaction = true)
    (he : encode s.cfg i = .req w) (hp : s.blk.seqPhase = .idle)
    (ho : portOffers w s = true) : exec i s = .next { s with
      held := s.held.tail, blk := Expect.accepted s.cfg s.blk i } := by
  rw [exec_eq_offer hi he, offer_accepted hp ho]
  rfl

/-- While the sequencer is busy, an offered request waits at the host (42_sequencer.md R201). -/
theorem offer_held {w : ReqWord} {f : State → State} {s : State} (hp : s.blk.seqPhase ≠ .idle) :
    (s.held = [] → offer w f s = .next (s.withHeld [w])) ∧
    (∀ rest, s.held = w :: rest → offer w f s = .next s) := by
  constructor
  · intro hh
    simp only [offer, hh, if_neg hp]
  · intro rest hh
    simp only [offer, hh, if_pos, if_neg hp]

/-! ### The statements -/

/-- Settles O23: the six requests are accepted under their words, and none writes Device State. -/
theorem plainCommandsAreAccepted : Obligations.PlainCommandsAreAccepted := fun _ hp =>
  ⟨exec_accepted (i := .kbReset) rfl rfl hp, exec_accepted (i := .kbEnable) rfl rfl hp,
    exec_accepted (i := .kbDisable) rfl rfl hp, exec_accepted (i := .kbDefaults) rfl rfl hp,
    exec_accepted (i := .kbReadid) rfl rfl hp, exec_accepted (i := .kbResend) rfl rfl hp⟩

/-- The request word of KB_SETLEDS as a number (30_encoding.md R110). -/
theorem encode_kbSetleds (c : Config) (x y z : Bool) : encode c (.kbSetleds x y z) =
    .req (BitVec.ofNat 24
      (5 + 256 * Expect.bit x + 512 * Expect.bit y + 1024 * Expect.bit z)) := by
  cases x <;> cases y <;> cases z <;> rfl

/-- Settles O24: the request is accepted under its word. -/
theorem setledsWritesLedsAtAcceptance : Obligations.SetledsWritesLedsAtAcceptance :=
  fun x y z s hp ho => exec_accepted rfl (encode_kbSetleds s.cfg x y z) hp ho

/-- The request word of KB_TYPEMATIC as a number (30_encoding.md R110). -/
theorem encode_kbTypematic (c : Config) (r d : Byte) : encode c (.kbTypematic r d) =
    .req (BitVec.ofNat 24 (6 + 256 * r.toNat + 65536 * d.toNat)) := by
  have hr := r.isLt
  have hd := d.isLt
  refine congrArg Input.req (packReq_eq_iff.2 ⟨?_, ?_, ?_, ?_⟩)
  all_goals
    apply BitVec.eq_of_toNat_eq
    simp only [reqOp, reqRsvd, reqA, reqB, BitVec.extractLsb'_toNat, BitVec.toNat_ofNat,
      Nat.shiftRight_eq_div_pow]
    omega

/-- Settles O25: the request is accepted under its word, and the substituted operands are those of R207. -/
theorem typematicSubstitutesAndWrites : Obligations.TypematicSubstitutesAndWrites := by
  rintro r d s rate delay hp ho rfl rfl
  exact exec_accepted rfl (encode_kbTypematic s.cfg r d) hp ho

/-- Settles O26: of the three cases of the held list, the request leaves two as they are and is appended in the third. -/
theorem busyTransactionsAreHeld : Obligations.BusyTransactionsAreHeld := by
  intro i w s hi he hp
  rw [exec_eq_offer hi he]
  obtain ⟨hnone, hsame⟩ := offer_held hp
  exact ⟨hnone, hsame, fun v rest hh hv => offer_behind hh hv⟩

end Sys2Proof.Machine

/-! SUPPORT. The responses (42_sequencer.md R215 to R232): the result word as a number, what a byte that the sequencer awaits does, and a timeout. -/

namespace Sys2Proof.Machine

/-! ### FINISH (42_sequencer.md R215) -/

theorem code_num (c : ResultCode) : c.num.toNat = Expect.codeNumber c := by cases c <;> rfl

/-- A result word is the sum of its fields at their places (30_encoding.md R115). -/
theorem resultWord_eq (c : ResultCode) (nack : Bool) (byte : Byte) (id : BitVec 16) :
    resultWord c nack byte id =
      Expect.result (Expect.codeNumber c) nack byte.toNat id.toNat := by
  have hc := c.num.isLt
  have hn := bit_lt_two nack
  have hb := byte.isLt
  rw [← code_num]
  simp (disch := omega) only [resultWord, Expect.result, flag, field_zero, ofNat_or_field,
    toNat_ofBool, Nat.reducePow]

/-- FINISH, with its word written out by the numbers of 30_encoding.md R115 and R116. -/
theorem finish_eq_ended (c : ResultCode) (byte : Byte) (id : BitVec 16) (s : State) :
    finish c byte id s =
      Expect.ended (Expect.result (Expect.codeNumber c) s.blk.tNack byte.toNat id.toNat) s := by
  rw [← resultWord_eq]
  rfl

/-- Settles O27. -/
theorem finishReportsOneResultWord : Obligations.FinishReportsOneResultWord := finish_eq_ended

/-! ### A byte that the sequencer awaits -/

/-- Between frames a device byte is the byte of its frame (41_bit_sampler.md R188). -/
theorem deviceByte_of_betweenFrames (b : Byte) {s : State} (h : betweenFrames s = true) :
    deviceByte b s = dispatch b s := by
  rw [deviceByte, edges_eleven _ h, decodeFrame_encodeFrame]

section
variable {s : State}

theorem waits_iff (sub : AwaitSub) : Expect.waits sub s = true ↔
    s.blk.seqPhase = .await ∧ s.blk.awaitSub = sub ∧ betweenFrames s = true := by
  simp [Expect.waits, and_assoc]

/-- A device byte that arrives while one is awaited is a response (42_sequencer.md R232). -/
theorem deviceByte_of_waits {sub : AwaitSub} (b : Byte) (h : Expect.waits sub s = true) :
    deviceByte b s = .next (onResponse b s) := by
  obtain ⟨hp, -, hf⟩ := (waits_iff sub).1 h
  rw [deviceByte_of_betweenFrames b hf, dispatch, hp]

theorem deviceByte_of_awAck (b : Byte) (h : Expect.waits .awAck s = true) :
    deviceByte b s = .next (onAwaitAck b s) := by
  rw [deviceByte_of_waits b h, onResponse, ((waits_iff _).1 h).2.1]

theorem deviceByte_of_awReady (b : Byte) (h : Expect.waits .awReady s = true) :
    deviceByte b s = .next (onAwaitReady b s) := by
  rw [deviceByte_of_waits b h, onResponse, ((waits_iff _).1 h).2.1]

theorem deviceByte_of_awId0 (b : Byte) (h : Expect.waits .awId0 s = true) :
    deviceByte b s = .next (onId0 b s) := by
  rw [deviceByte_of_waits b h, onResponse, ((waits_iff _).1 h).2.1]

theorem deviceByte_of_awId1 (b : Byte) (h : Expect.waits .awId1 s = true) :
    deviceByte b s = .next (onId1 b s) := by
  rw [deviceByte_of_waits b h, onResponse, ((waits_iff _).1 h).2.1]

end

/-- The three response codes differ from each other (00_scope.md R8). -/
theorem respDistinct_iff (c : Config) : c.respDistinct = true ↔
    c.respAck ≠ c.respResend ∧ c.respAck ≠ c.respReady ∧ c.respResend ≠ c.respReady := by
  simp [Config.respDistinct, distinct_eq_true_iff, and_assoc]

/-! ### RESP_ACK (42_sequencer.md R220) -/

section
variable {s : State}

theorem onAck_of_generic (hk : s.blk.tKind = .generic) : onAck s = finish .ack 0#8 0#16 s := by
  rw [onAck, hk]

theorem onAck_of_data_sent (hk : s.blk.tKind = .twoPhase) (hv : s.blk.tDataV = false) :
    onAck s = finish .ack 0#8 0#16 s := by
  rw [onAck, hk, hv]
  rfl

theorem onAck_of_data_waiting (hk : s.blk.tKind = .twoPhase) (hv : s.blk.tDataV = true) :
    onAck s = s.withBlk s.blk.sendData := by
  rw [onAck, hk, hv]
  rfl

theorem onAck_of_reset (hk : s.blk.tKind = .reset) :
    onAck s = s.withBlk (s.blk.awaitFor .awReady) := by
  rw [onAck, hk]

theorem onAck_of_readId (hk : s.blk.tKind = .readId) :
    onAck s = s.withBlk (s.blk.awaitFor .awId0) := by
  rw [onAck, hk]

theorem exec_respAck (h : Expect.waits .awAck s = true) : exec .respAck s = .next (onAck s) :=
  (deviceByte_of_awAck _ h).trans (congrArg _ (if_pos rfl))

end

/-- Settles O28: RESP_ACK is taken by the transaction's kind. -/
theorem ackAdvancesTheTransaction : Obligations.AckAdvancesTheTransaction := by
  intro s h
  rw [exec_respAck h]
  have hf := finish_eq_ended .ack 0#8 0#16 s
  refine ⟨fun hk => ?_, fun hk hv => ?_, fun hk hv => ?_, fun hk => ?_, fun hk => ?_⟩
  · exact congrArg _ ((onAck_of_generic hk).trans hf)
  · exact congrArg _ ((onAck_of_data_sent hk hv).trans hf)
  · exact congrArg _ (onAck_of_data_waiting hk hv)
  · exact congrArg _ (onAck_of_reset hk)
  · exact congrArg _ (onAck_of_readId hk)

/-! ### RESP_RESEND (42_sequencer.md R221) -/

theorem exec_respResend {s : State} (hd : s.cfg.respDistinct = true)
    (h : Expect.waits .awAck s = true) :
    exec .respResend s = .next (onResend s.cfg.respResend s) := by
  obtain ⟨ha, -, -⟩ := (respDistinct_iff _).1 hd
  refine (deviceByte_of_awAck _ h).trans ?_
  rw [onAwaitAck, if_neg ha.symm, if_pos rfl]

/-- Settles O29: RESP_RESEND is no ack, and is counted against the limit. -/
theorem resendRetransmitsThenGivesUp : Obligations.ResendRetransmitsThenGivesUp := by
  intro s h hd
  rw [exec_respResend hd h]
  refine ⟨fun hlt => ?_, fun hle => ?_⟩
  · exact congrArg _ (if_pos hlt)
  · rw [onResend, if_neg (Nat.not_lt.2 hle), finish_eq_ended]
    rfl

/-! ### RESP_READY and every other byte (42_sequencer.md R222 to R224) -/

section
variable {b : Byte} {s : State}

/-- RESP_READY after the reset's ack ends the reset with READY (R224). -/
theorem exec_respReady_of_awReady (h : Expect.waits .awReady s = true) :
    exec .respReady s = .next (Expect.ended (Expect.result 2 s.blk.tNack 0 0) s) := by
  refine (deviceByte_of_awReady _ h).trans (congrArg _ ?_)
  rw [onAwaitReady, if_pos rfl, finish_eq_ended]
  rfl

theorem onAwaitReady_other (h : b ≠ s.cfg.respReady) : onAwaitReady b s =
    Expect.ended (Expect.result 4 s.blk.tNack b.toNat 0) s := by
  rw [onAwaitReady, if_neg h, finish_eq_ended]
  rfl

theorem onAwaitAck_ready (hd : s.cfg.respDistinct = true) (hk : s.blk.tKind = .reset) :
    onAwaitAck s.cfg.respReady s = Expect.ended (Expect.result 2 s.blk.tNack 0 0) s := by
  obtain ⟨-, ha, hr⟩ := (respDistinct_iff _).1 hd
  rw [onAwaitAck, if_neg ha.symm, if_neg hr.symm, if_pos ⟨rfl, hk⟩, finish_eq_ended]
  rfl

theorem onAwaitAck_other (ha : b ≠ s.cfg.respAck) (hr : b ≠ s.cfg.respResend)
    (hk : ¬(b = s.cfg.respReady ∧ s.blk.tKind = .reset)) :
    onAwaitAck b s = Expect.ended (Expect.result 4 s.blk.tNack b.toNat 0) s := by
  rw [onAwaitAck, if_neg ha, if_neg hr, if_neg hk, finish_eq_ended]
  rfl

end

/-- Settles O30: a reset's RESP_READY ends it in either wait; to another command it is a byte like any other. -/
theorem readyEndsAReset : Obligations.ReadyEndsAReset := by
  intro s hd
  obtain ⟨-, ha, hr⟩ := (respDistinct_iff _).1 hd
  refine ⟨exec_respReady_of_awReady, fun h hk => ?_, fun h hk => ?_⟩
  · exact (deviceByte_of_awAck _ h).trans (congrArg _ (onAwaitAck_ready hd hk))
  · exact (deviceByte_of_awAck _ h).trans
      (congrArg _ (onAwaitAck_other ha.symm hr.symm fun h => hk h.2))

/-- Settles O31: such a byte passes every test before the protocol error. -/
theorem unexpectedResponsesAreProtocolErrors :
    Obligations.UnexpectedResponsesAreProtocolErrors := by
  intro b rest s hr hi h
  rw [step_deviceByte hr hi]
  obtain ⟨h, ha, hs, hk⟩ | ⟨h, hn⟩ := h
  · exact (deviceByte_of_awAck (s := s.withInputs rest) b h).trans
      (congrArg _ (onAwaitAck_other ha hs hk))
  · exact (deviceByte_of_awReady (s := s.withInputs rest) b h).trans
      (congrArg _ (onAwaitReady_other hn))

/-! ### The two ID bytes (42_sequencer.md R225, R226) -/

theorem id_lt (low high : Byte) : 256 * high.toNat + low.toNat < 2 ^ 16 := by
  have hl := low.isLt
  have hh := high.isLt
  omega

/-- The ID of the two bytes as a number, the second one being its high byte. -/
theorem id_eq_ofNat (low high : Byte) : high.setWidth 16 <<< 8 ||| low.setWidth 16 =
    BitVec.ofNat 16 (256 * high.toNat + low.toNat) := by
  have hn : 256 * high.toNat + low.toNat = 256 * high.toNat ||| low.toNat :=
    Nat.two_pow_add_eq_or_of_lt low.isLt high.toNat
  rw [hn, BitVec.ofNat_or, BitVec.ofNat_toNat]
  congr 1
  apply BitVec.eq_of_toNat_eq
  simp [Nat.shiftLeft_eq, Nat.mul_comm]

/-- The second ID byte writes DEV_ID and ends the transaction with it. -/
theorem onId1_eq_ended (b : Byte) (s : State) : onId1 b s =
    Expect.ended (Expect.result 3 s.blk.tNack 0 (256 * b.toNat + s.blk.tIdlo.toNat))
      (s.withBlk (s.blk.storeDevId (BitVec.ofNat 16 (256 * b.toNat + s.blk.tIdlo.toNat)))) := by
  simp only [onId1, id_eq_ofNat, finish_eq_ended, BitVec.toNat_ofNat,
    Nat.mod_eq_of_lt (id_lt s.blk.tIdlo b)]
  rfl

/-- Settles O32: neither wait tests the byte. -/
theorem idBytesAreCapturedLowFirst : Obligations.IdBytesAreCapturedLowFirst := by
  intro b rest s hr hi
  rw [step_deviceByte hr hi]
  refine ⟨fun h => ?_, fun h => ?_⟩
  · exact deviceByte_of_awId0 (s := s.withInputs rest) b h
  · exact (deviceByte_of_awId1 (s := s.withInputs rest) b h).trans
      (congrArg _ (onId1_eq_ended b _))

/-! ### TIMEOUT (42_sequencer.md R228) -/

theorem bsAbort_of_not_sends {k : Block} (hm : k.bsMode = .idle ∨ k.bsMode = .receiving) :
    k.bsAbort = k := by
  obtain hm | hm := hm <;> rw [Block.bsAbort, hm]

@[simp] theorem bsAbort_tNack (k : Block) : k.bsAbort.tNack = k.tNack := by
  unfold Block.bsAbort; split <;> rfl

theorem onTimeout_of_idle {s : State} (hp : s.blk.seqPhase = .idle) : onTimeout s = s := if_pos hp

theorem onTimeout_of_busy {s : State} (hp : s.blk.seqPhase ≠ .idle) : onTimeout s =
    Expect.ended (Expect.result 6 s.blk.tNack 0 0) (s.withBlk s.blk.bsAbort) := by
  rw [onTimeout, if_neg hp, finish_eq_ended, withBlk_blk, bsAbort_tNack]
  rfl

/-- Settles O33: a timeout of a busy sequencer is BS_ABORT, which acts by the mode, and FINISH. -/
theorem timeoutEndsTheTransaction : Obligations.TimeoutEndsTheTransaction := by
  intro s
  refine ⟨fun hp => congrArg _ (onTimeout_of_idle hp), fun hp hm => ?_, fun hp hi hr => ?_⟩
  · refine congrArg _ ((onTimeout_of_busy hp).trans ?_)
    rw [bsAbort_of_not_sends hm, withBlk_self]
  · refine congrArg _ ((onTimeout_of_busy hp).trans ?_)
    cases hm : s.blk.bsMode with
    | idle => exact absurd hm hi
    | receiving => exact absurd hm hr
    | inhibit | transmitting | ack =>
      rw [Block.bsAbort, hm]
      rfl

end Sys2Proof.Machine

/-! SUPPORT. One transaction at a time (42_sequencer.md R235, R236): apart from an acceptance and a reset, every operation keeps an idle sequencer idle, and returns a busy one to IDLE only with its Done. -/

namespace Sys2Proof.Machine

/-! ### Idle stays idle, and busy ends with Done -/

/-- From s to t no transaction begins, and one that ends emits its Done with the new RESULT. -/
structure NoneBegins (s t : State) : Prop where
  idle : s.blk.seqPhase = .idle → t.blk.seqPhase = .idle
  done : s.blk.seqPhase ≠ .idle → t.blk.seqPhase = .idle → t.out = s.out ++ [.done t.blk.result]

/-- Where the phase stays what it was, none begins and none ends. -/
theorem NoneBegins.of_phase_eq {s t : State} (h : t.blk.seqPhase = s.blk.seqPhase) :
    NoneBegins s t :=
  ⟨h.trans, fun hb hi => absurd (h.symm.trans hi) hb⟩

theorem onTimeout_noneBegins (s : State) : NoneBegins s (onTimeout s) := by
  by_cases hp : s.blk.seqPhase = .idle
  · exact .of_phase_eq (by rw [onTimeout_of_idle hp])
  · refine ⟨fun hi => absurd hi hp, fun _ _ => ?_⟩
    rw [onTimeout_of_busy hp]
    rfl

theorem inhibitDone_noneBegins {s : State} (h : s.blk.Inv) : NoneBegins s (inhibitDone s) := by
  by_cases hm : s.blk.bsMode = .inhibit
  · rw [inhibitDone_of_inhibit hm]
    have hp : s.blk.seqPhase = .inhibit := h.a.2 hm
    exact ⟨by simp [hp], by simp [Block.startFrame]⟩
  · exact .of_phase_eq (by rw [inhibitDone_of_not_inhibit hm])

/-! ### Edges -/

/-- In an idle block the edges gather scan bytes, and the scan decoder begins no transaction. -/
theorem edge_idle {d : Bool} {s t : State} (hk : s.blk.Inv) (hp : s.blk.seqPhase = .idle)
    (h : edge d s = .next t) : t.blk.seqPhase = .idle := by
  have hm : ¬s.blk.Sends := not_sends (hk.c.1 (.inl hp))
  obtain ⟨-, -, rfl⟩ | ⟨-, -, h⟩ | ⟨hi, -⟩ | ⟨hi, -, -, -⟩ | ⟨hi, -, -⟩ | ⟨hi, -, -⟩ := edge_cases h
  · exact hp
  · obtain ⟨b, -, h⟩ | ⟨p, q, -, rfl⟩ := receiveLast_cases h
    · obtain ⟨ha, -⟩ | ⟨-, rfl⟩ := dispatch_cases h
      · exact absurd (ha.symm.trans hp) (by decide)
      · exact (scanByte_sameLine b _).seqPhase.trans hp
    · exact hp
  · exact absurd (.inl hi) hm
  · exact absurd (.inr (.inl hi)) hm
  · exact absurd (.inr (.inl hi)) hm
  · exact absurd (.inr (.inr hi)) hm

theorem edges_idle {ds : List Bool} {s t : State} (hk : s.blk.Inv) (hp : s.blk.seqPhase = .idle)
    (h : edges ds s = .next t) : t.blk.seqPhase = .idle := by
  induction ds generalizing s with
  | nil => cases h; exact hp
  | cons d ds ih =>
    obtain ⟨u, hu, h⟩ := andThen_eq_next h
    exact ih (edge_Inv hk hu) (edge_idle hk hp hu) h

/-- The transaction is still in flight and nothing was emitted, or it ended with its Done. -/
def StaysOrEnds (s t : State) : Prop :=
  (t.blk.seqPhase ≠ .idle ∧ t.out = s.out) ∨
    (t.blk.seqPhase = .idle ∧ t.out = s.out ++ [.done t.blk.result])

theorem onResponse_staysOrEnds (b : Byte) {s : State} (hp : s.blk.seqPhase ≠ .idle) :
    StaysOrEnds s (onResponse b s) := by
  obtain ⟨-, -, h⟩ | ⟨-, -, h⟩ | ⟨-, h⟩ | ⟨-, -, -, h⟩ | ⟨-, -, h⟩ | ⟨c, x, -, -, -, h⟩ | ⟨id, h⟩ :=
    onResponse_cases b s <;> rw [h]
  · exact .inl ⟨hp, rfl⟩
  · exact .inl ⟨hp, rfl⟩
  · exact .inl ⟨hp, rfl⟩
  · exact .inl ⟨by simp [Block.sendData, Block.txByte], rfl⟩
  · exact .inl ⟨by simp [Block.sendAgain, Block.txByte], rfl⟩
  · exact .inr ⟨rfl, rfl⟩
  · exact .inr ⟨rfl, rfl⟩

theorem edge_staysOrEnds {d : Bool} {s t : State} (hp : s.blk.seqPhase ≠ .idle)
    (h : edge d s = .next t) : StaysOrEnds s t := by
  obtain ⟨-, -, rfl⟩ | ⟨-, -, h⟩ | ⟨-, rfl⟩ | ⟨-, -, -, rfl⟩ | ⟨-, -, rfl⟩ | ⟨-, -, rfl⟩ :=
    edge_cases h
  · exact .inl ⟨hp, rfl⟩
  · obtain ⟨b, -, h⟩ | ⟨p, q, -, rfl⟩ := receiveLast_cases h
    · obtain ⟨-, rfl⟩ | ⟨hi, -⟩ := dispatch_cases h
      · exact onResponse_staysOrEnds b (s := s.withBlk s.blk.clearRx) hp
      · exact absurd hi hp
    · exact .inl ⟨hp, rfl⟩
  · exact .inl ⟨hp, rfl⟩
  · exact .inl ⟨hp, rfl⟩
  · exact .inl ⟨hp, rfl⟩
  · exact .inl ⟨by simp [Block.sampleAck], rfl⟩

/-- An edge that emits something ends a frame, so ten more edges complete no other one. -/
theorem edges_staysOrEnds {ds : List Bool} {s t : State} (hn : ds.length ≤ 11)
    (hp : s.blk.seqPhase ≠ .idle) (h : edges ds s = .next t) : StaysOrEnds s t := by
  induction ds generalizing s with
  | nil => cases h; exact .inl ⟨hp, rfl⟩
  | cons d ds ih =>
    simp only [List.length_cons] at hn
    obtain ⟨u, hu, h⟩ := andThen_eq_next h
    obtain ⟨hb, ho⟩ | ⟨hi, hd⟩ := edge_staysOrEnds hp hu
    · rw [StaysOrEnds, ← ho]
      exact ih (by omega) hb h
    · have hr : u.blk.RxReady := ((edge_emits hu).resolve_left (by simp [hd])).2
      obtain ⟨v, i, m, rfl⟩ := edges_of_rxReady hr (by omega) h
      exact .inr ⟨hi, hd⟩

theorem edges_noneBegins {ds : List Bool} {s t : State} (hn : ds.length ≤ 11) (hk : s.blk.Inv)
    (h : edges ds s = .next t) : NoneBegins s t where
  idle hi := edges_idle hk hi h
  done hp hi := ((edges_staysOrEnds hn hp h).resolve_left fun hb => hb.1 hi).2

theorem deviceByte_noneBegins {b : Byte} {s t : State} (hk : s.blk.Inv)
    (h : deviceByte b s = .next t) : NoneBegins s t :=
  edges_noneBegins (ds := wireBits (encodeFrame b)) (Nat.le_refl 11) hk h

/-- A host byte crosses the wire while its transaction is in flight, and the response is still to come. -/
theorem hostByte_noneBegins {b : Byte} {s t : State} (hk : s.blk.Inv)
    (h : hostByte b s = .next t) : NoneBegins s t := by
  by_cases hw : s.blk.bsMode = .inhibit ∧ s.blk.txFrame = encodeFrame b
  · obtain ⟨hm, hf⟩ := hw
    have hp : s.blk.seqPhase = .inhibit := hk.a.2 hm
    rw [hostByte_on_wire hm hf, txCycle_acknowledged false hm hf] at h
    cases h
    exact ⟨by simp [hp], by simp [Block.acknowledged]⟩
  · rw [hostByte_off_wire hw] at h
    cases h
    exact .of_phase_eq rfl

/-! ### Rows, inputs of no row, and a whole step -/

theorem respond_noneBegins {w : RespWord} {s t : State} (h : respond w s = .next t) :
    NoneBegins s t := by
  cases h
  exact .of_phase_eq rfl

theorem exec_noneBegins {i : Instr} {s t : State} (hk : s.blk.Inv) (hi : i.isTransaction = false)
    (hr : i ≠ .rst) (h : exec i s = .next t) : NoneBegins s t := by
  cases i with
  | kbReset | kbEnable | kbDisable | kbDefaults | kbSetleds | kbTypematic | kbReadid | kbResend =>
    cases hi
  | qLocks | qResult | qStatus | qDev | qDiag | qXlat => exact respond_noneBegins h
  | fall d => exact edges_noneBegins (by simp) hk ((edges_singleton d s).trans h)
  | inhdone => cases h; exact inhibitDone_noneBegins hk
  | timeout => cases h; exact onTimeout_noneBegins s
  | rst => exact absurd rfl hr
  | cmdReset | cmdEnable | cmdDisable | cmdSetDefault | cmdSetLeds | cmdSetTypematic | cmdReadId
  | cmdResend | ledData | typematicData => exact hostByte_noneBegins hk h
  | respAck | respResend | respReady => exact deviceByte_noneBegins hk h

theorem onReject_noneBegins {i : Input} {r : Reject} {s t : State} (hk : s.blk.Inv)
    (h : onReject i r s = .next t) : NoneBegins s t := by
  cases i with
  | req w => exact respond_noneBegins h
  | event ev =>
    simp only [onReject] at h
    split at h
    next => cases h; exact .of_phase_eq rfl
    next => cases h
  | reset b => cases h; exact .of_phase_eq rfl
  | hostCommand b | hostLedData b | hostTypematicData b => exact hostByte_noneBegins hk h
  | deviceByte b => exact deviceByte_noneBegins hk h

/-- A transaction request is a request word (30_encoding.md R109). -/
theorem encode_of_isTransaction (c : Config) {i : Instr} (hi : i.isTransaction = true) :
    ∃ w, encode c i = .req w := by
  cases i with
  | kbReset | kbEnable | kbDisable | kbDefaults | kbSetleds | kbTypematic | kbReadid | kbResend =>
    exact ⟨_, rfl⟩
  | _ => cases hi

/-- A transaction request emits nothing, and it leaves a busy sequencer's block as it is (42_sequencer.md R200, R201). -/
theorem exec_transaction_frame {i : Instr} {s t : State} (hi : i.isTransaction = true)
    (h : exec i s = .next t) :
    t.out = s.out ∧ (s.blk.seqPhase ≠ .idle → t.blk = s.blk) := by
  obtain ⟨w, he⟩ := encode_of_isTransaction s.cfg hi
  rw [exec_eq_offer hi he] at h
  obtain ⟨hp, -, ho⟩ | ⟨held, ho⟩ := offer_cases _ _ s <;> cases ho.symm.trans h
  · exact ⟨rfl, absurd hp⟩
  · exact ⟨rfl, fun _ => rfl⟩

/-- A step takes a transaction request, takes RST, or begins no transaction. -/
theorem step_noneBegins {s t : State} (h : step s = .next t) :
    (∃ i rest w, s.inputs = .req w :: rest ∧ decodeReq w = .ok i ∧ i.isTransaction = true ∧
      exec i (s.withInputs rest) = .next t) ∨
    (∃ rest, s.inputs = .reset 1#1 :: rest ∧ t = resetBlock (s.withInputs rest)) ∨
    NoneBegins s t := by
  have hr := step_runnable h
  have hk := Inv_of_runnable hr
  cases hi : s.inputs with
  | nil =>
    cases (step_no_input hr hi).symm.trans h
    exact .inr (.inr (.of_phase_eq rfl))
  | cons x rest =>
    cases hd : decode s.cfg x with
    | error r =>
      have hx := (step_of_reject hr hi hd).symm.trans h
      exact .inr (.inr { onReject_noneBegins (s := s.withInputs rest) hk hx with })
    | ok i =>
      have hx := (step_of_decode hr hi hd).symm.trans h
      obtain rfl : encode s.cfg i = x := encodeOfDecodeIsTheInput _ _ _ hd
      by_cases ht : i.isTransaction = true
      · obtain ⟨w, he⟩ := encode_of_isTransaction s.cfg ht
        rw [he] at hd ⊢
        exact .inl ⟨i, rest, w, rfl, hd, ht, hx⟩
      · by_cases hrst : i = .rst
        · subst hrst
          cases hx
          exact .inr (.inl ⟨rest, rfl, rfl⟩)
        · exact .inr (.inr
            { exec_noneBegins (s := s.withInputs rest) hk (Bool.eq_false_iff.2 ht) hrst hx with })

/-- Settles O52: of what a step can take, only a transaction request begins a transaction, and it ends none; what ends one is RST or a Done. -/
theorem oneTransactionAtATime : Obligations.OneTransactionAtATime := by
  intro s t h
  obtain ⟨i, rest, w, hi, hd, ht, hx⟩ | ⟨rest, hi, rfl⟩ | hn := step_noneBegins h
  · obtain ⟨ho, hb⟩ := exec_transaction_frame ht hx
    refine ⟨fun _ _ => ⟨i, rest, w, hi, hd, ht, ho⟩, fun hp hq => ?_⟩
    rw [hb hp] at hq
    exact absurd hq hp
  · exact ⟨fun _ hq => absurd rfl hq, fun _ _ => .inl ⟨rest, hi⟩⟩
  · exact ⟨fun hp hq => absurd (hn.idle hp) hq, fun hp hq => .inr (hn.done hp hq)⟩

end Sys2Proof.Machine

/-! SUPPORT. The paths of the transactions without a resend (42_sequencer.md R234): the request, its bytes on the wire with good acknowledgments, and the device's answers. -/

namespace Sys2Proof.Machine

/-! ### A request and its command byte -/

/-- The block after its byte crossed the wire with a good acknowledgment: it awaits the response (41_bit_sampler.md R185). -/
def Block.sent (k : Block) : Block :=
  { k with clkDrv := false, datDrv := false, txIdx := 0#4, bsMode := .idle, seqPhase := .await }

/-- The block after its data byte, begun by the ack of the command, crossed the wire as well (42_sequencer.md R220). -/
def Block.dataSent (k : Block) : Block := k.sendData.sent

section
variable {s : State}

/-- A host byte that the block is about to send crosses the wire with a good acknowledgment. -/
theorem exec_sent {i : Instr} {b : Byte} {k : Block} (hl : s.cfg.ackLevel = false)
    (hi : IsHostByte b (encode s.cfg i)) (hm : k.bsMode = .inhibit)
    (hf : k.txFrame = encodeFrame b) : exec i (s.withBlk k) = .next (s.withBlk k.sent) := by
  rw [exec_eq_hostByte (s := s.withBlk k) hi, hostByte_on_wire (s := s.withBlk k) hm hf,
    txCycle_acknowledged (s := s.withBlk k) false hm hf, Block.acknowledged, nackAfter_false,
    withBlk_cfg, if_pos hl]
  rfl

/-- With nothing held, an idle sequencer accepts the request. -/
theorem exec_accepted_of_not_held {i : Instr} (hi : i.isTransaction = true)
    (hp : s.blk.seqPhase = .idle) (hh : s.held = []) :
    exec i s = .next (s.withBlk (Expect.accepted s.cfg s.blk i)) := by
  obtain ⟨w, he⟩ := encode_of_isTransaction s.cfg hi
  rw [exec_accepted hi he hp (by rw [portOffers, hh])]
  simp only [State.withBlk, hh, List.tail_nil]

variable {i byte data : Instr} {kind : TKind} {cmd b : Byte} {dataV : Bool} {k : Block}

/-- The request is accepted and its command byte crosses the wire. -/
theorem exec_command (hp : s.blk.seqPhase = .idle) (hh : s.held = [])
    (hl : s.cfg.ackLevel = false) (hi : i.isTransaction = true)
    (ha : Expect.accepted s.cfg s.blk i = Expect.begun kind cmd dataV b k)
    (hb : encode s.cfg byte = .hostCommand cmd) (f : State → Result) :
    andThen (exec i s) (fun u => andThen (exec byte u) f) =
      f (s.withBlk (Expect.begun kind cmd dataV b k).sent) := by
  rw [exec_accepted_of_not_held hi hp hh, andThen_next, ha,
    exec_sent hl (.inl hb) rfl rfl, andThen_next]

/-! ### The four kinds -/

/-- A GENERIC command ends with ACK (42_sequencer.md R220). -/
theorem generic_path (hp : s.blk.seqPhase = .idle) (hh : s.held = [])
    (hl : s.cfg.ackLevel = false) (hi : i.isTransaction = true)
    (ha : Expect.accepted s.cfg s.blk i = Expect.begun .generic cmd false 0#8 s.blk)
    (hb : encode s.cfg byte = .hostCommand cmd) :
    andThen (exec i s) (fun u => andThen (exec byte u) (exec .respAck)) =
      .next (Expect.ended 0x00000001#32
        (s.withBlk (Expect.begun .generic cmd false 0#8 s.blk).sent)) := by
  rw [exec_command hp hh hl hi ha hb]
  exact (ackAdvancesTheTransaction _ rfl).1 rfl

/-- A TWO_PHASE command sends its data byte after the first ack and ends with ACK after the second (42_sequencer.md R220). -/
theorem twoPhase_path (hp : s.blk.seqPhase = .idle) (hh : s.held = [])
    (hl : s.cfg.ackLevel = false) (hi : i.isTransaction = true)
    (ha : Expect.accepted s.cfg s.blk i = Expect.begun .twoPhase cmd true b k)
    (hb : encode s.cfg byte = .hostCommand cmd) (hd : IsHostByte b (encode s.cfg data)) :
    andThen (exec i s) (fun u => andThen (exec byte u) (fun v => andThen (exec .respAck v)
        (fun w => andThen (exec data w) (exec .respAck)))) =
      .next (Expect.ended 0x00000001#32
        (s.withBlk (Expect.begun .twoPhase cmd true b k).sent.dataSent)) := by
  have hack := exec_respAck (s := s.withBlk (Expect.begun .twoPhase cmd true b k).sent) rfl
  rw [exec_command hp hh hl hi ha hb, hack, onAck_of_data_waiting rfl rfl, andThen_next,
    withBlk_withBlk, withBlk_blk, exec_sent hl hd rfl rfl, andThen_next]
  exact (ackAdvancesTheTransaction _ rfl).2.1 rfl rfl

end

/-- A RESET ends with READY (42_sequencer.md R224). -/
theorem reset_path {s : State} (hp : s.blk.seqPhase = .idle) (hh : s.held = [])
    (hl : s.cfg.ackLevel = false) :
    andThen (exec .kbReset s) (fun u => andThen (exec .cmdReset u) (fun v =>
        andThen (exec .respAck v) (exec .respReady))) =
      .next (Expect.ended 0x00000002#32 (s.withBlk
        ((Expect.begun .reset s.cfg.cmdReset false 0#8 s.blk).sent.awaitFor .awReady))) := by
  rw [exec_command hp hh hl rfl rfl rfl, exec_respAck rfl, onAck_of_reset rfl, andThen_next]
  exact exec_respReady_of_awReady rfl

/-- A READ_ID ends with the ID of the two bytes after its ack (42_sequencer.md R225, R226). -/
theorem readId_path {s : State} (p q : Byte) (hp : s.blk.seqPhase = .idle) (hh : s.held = [])
    (hl : s.cfg.ackLevel = false) :
    ∃ k, andThen (exec .kbReadid s) (fun u => andThen (exec .cmdReadId u) (fun v =>
        andThen (exec .respAck v) (fun w => andThen (deviceByte p w) (deviceByte q)))) =
      .next (Expect.ended (Expect.result 3 false 0 (256 * q.toNat + p.toNat))
        (s.withBlk (Block.storeDevId (BitVec.ofNat 16 (256 * q.toNat + p.toNat)) k))) := by
  rw [exec_command hp hh hl rfl rfl rfl, exec_respAck rfl, onAck_of_readId rfl, andThen_next,
    deviceByte_of_awId0 _ rfl, andThen_next, deviceByte_of_awId1 _ rfl, onId1_eq_ended]
  exact ⟨_, rfl⟩

/-! ### The statement -/

/-- The typematic data byte of the substituted operands (42_sequencer.md R207, 30_encoding.md R106). -/
theorem tmByte_ofNat (r d : Byte) :
    tmByte (BitVec.ofNat 5 (Expect.rate r)) (BitVec.ofNat 2 (Expect.delay d)) =
      BitVec.ofNat 8 (32 * Expect.delay d + Expect.rate r) := by
  rw [← substRate_eq_ofNat, ← substDelay_eq_ofNat, tmByte_subst]

/-- Settles O34: each request takes the path of its kind. -/
theorem transactionPathsReachTheirResults : Obligations.TransactionPathsReachTheirResults := by
  intro s x y z r d p q hp hh hl
  refine ⟨fun request byte hmem => ?_, ?_, ?_, ?_, ?_⟩
  · simp only [List.mem_cons, List.not_mem_nil, or_false, Prod.mk.injEq] at hmem
    obtain ⟨rfl, rfl⟩ | ⟨rfl, rfl⟩ | ⟨rfl, rfl⟩ | ⟨rfl, rfl⟩ := hmem <;>
      exact ⟨_, generic_path hp hh hl rfl rfl rfl, rfl, rfl⟩
  · have hd : encode s.cfg (.ledData x y z) = .hostLedData _ :=
      congrArg Input.hostLedData (ledByte_eq_ofNat x y z)
    exact ⟨_, twoPhase_path hp hh hl rfl rfl rfl (.inr (.inl hd)), rfl, rfl, rfl, rfl, rfl⟩
  · have hd : encode s.cfg (.typematicData _ _) = .hostTypematicData _ :=
      congrArg Input.hostTypematicData (tmByte_ofNat r d)
    exact ⟨_, twoPhase_path hp hh hl rfl rfl rfl (.inr (.inr hd)), rfl, rfl,
      Nat.mod_eq_of_lt (rate_lt r), Nat.mod_eq_of_lt (delay_lt d)⟩
  · exact ⟨_, reset_path hp hh hl, rfl, rfl⟩
  · obtain ⟨k, hk⟩ := readId_path p q hp hh hl
    exact ⟨_, hk, rfl, rfl, rfl⟩

end Sys2Proof.Machine

/-! SUPPORT. The scan-code decoder (spec/43_scan_decoder.md): what MATCH answers in a table with distinct codes, what a scan byte then does, and which key each lock identity is. -/

namespace Sys2Proof.Machine

/-! ### MATCH (43_scan_decoder.md R260, R261) -/

/-- The 2·N codes are the make codes and the break codes (R260 (b)). -/
theorem codes_perm (t : List KeyEntry) :
    (KeyEntry.codes t).Perm (t.map KeyEntry.make ++ t.map KeyEntry.brk) := by
  induction t with
  | nil => exact .nil
  | cons e es ih => exact ((ih.cons e.brk).trans List.perm_middle.symm).cons e.make

/-- The codes are distinct: each code is the make code or the break code of one entry (R260 (b)). -/
theorem codesDistinct_iff (c : Config) : c.codesDistinct = true ↔
    (c.keyTable.map KeyEntry.make).Nodup ∧ (c.keyTable.map KeyEntry.brk).Nodup ∧
      ∀ e ∈ c.keyTable, ∀ x ∈ c.keyTable, e.make ≠ x.brk := by
  rw [Config.codesDistinct, distinct_eq_true_iff, (codes_perm _).nodup_iff, List.nodup_append]
  simp

/-- Where no two entries have the same code, the entry of a code is the one found by it. -/
theorem find?_code_of_nodup {f : KeyEntry → Code} {e : KeyEntry} {t : List KeyEntry}
    (hn : (t.map f).Nodup) (he : e ∈ t) : t.find? (f · = f e) = some e := by
  cases h : t.find? (f · = f e) with
  | none => simpa using List.find?_eq_none.1 h e he
  | some x =>
    have hx : f x = f e := by simpa using List.find?_some h
    rw [List.inj_on_of_nodup_map hn (List.mem_of_find?_eq_some h) he hx]

theorem findMake_eq (acc : Code) (t : List KeyEntry) :
    findMake acc t = (t.find? (·.make = acc)).map KeyEntry.id := by
  induction t with
  | nil => rfl
  | cons e es ih => by_cases h : e.make = acc <;> simp [findMake, h, ih]

theorem findBreak_eq (acc : Code) (t : List KeyEntry) :
    findBreak acc t = (t.find? (·.brk = acc)).map KeyEntry.id := by
  induction t with
  | nil => rfl
  | cons e es ih => by_cases h : e.brk = acc <;> simp [findBreak, h, ih]

theorem findMake_eq_none {acc : Code} {t : List KeyEntry} (h : ∀ e ∈ t, e.make ≠ acc) :
    findMake acc t = none := by
  simpa [findMake_eq] using h

section
variable {c : Config} {e : KeyEntry}

theorem matchCode_make (hc : c.codesDistinct = true) (he : e ∈ c.keyTable) :
    matchCode c.keyTable e.make = .press e.id := by
  obtain ⟨hm, -, -⟩ := (codesDistinct_iff c).1 hc
  rw [matchCode, findMake_eq, find?_code_of_nodup hm he]
  rfl

/-- No make code stands in the way of a break code. -/
theorem matchCode_brk (hc : c.codesDistinct = true) (he : e ∈ c.keyTable) :
    matchCode c.keyTable e.brk = .release e.id := by
  obtain ⟨-, hb, hd⟩ := (codesDistinct_iff c).1 hc
  rw [matchCode, findMake_eq_none fun x hx => hd x hx e he, findBreak_eq,
    find?_code_of_nodup hb he]
  rfl

end

theorem matchCode_none {acc : Code} {t : List KeyEntry}
    (h : ∀ e ∈ t, e.make ≠ acc ∧ e.brk ≠ acc) : matchCode t acc = .none := by
  have hb : findBreak acc t = none := by simpa [findBreak_eq] using fun e he => (h e he).2
  rw [matchCode, findMake_eq_none fun e he => (h e he).1, hb]

/-! ### A step that takes a scan byte (43_scan_decoder.md R264) -/

/-- SB_ACC with one more byte, as a number modulo 2^24. -/
theorem scanAcc_eq_acc (b : Byte) (s : State) : s.blk.scanAcc b = Expect.acc b s := by
  have hn : 256 * s.blk.sbAcc.toNat + b.toNat = 256 * s.blk.sbAcc.toNat ||| b.toNat :=
    Nat.two_pow_add_eq_or_of_lt b.isLt s.blk.sbAcc.toNat
  rw [Block.scanAcc, Expect.acc, Nat.mul_comm, hn, BitVec.ofNat_or, BitVec.ofNat_toNat]
  congr 1
  apply BitVec.eq_of_toNat_eq
  simp [Nat.shiftLeft_eq, Nat.mul_comm]

/-- With BS_MODE = IDLE nothing of a frame is gathered (10_state.md R54 (d)). -/
theorem betweenFrames_of_idle {s : State} (hk : s.blk.Inv) (hm : s.blk.bsMode = .idle) :
    betweenFrames s = true := by
  have hi : s.blk.rxIdx = 0#4 := by
    by_contra h
    simp [hk.d.1 h] at hm
  have hs : s.blk.rxShift = 0#11 :=
    BitVec.eq_of_getLsbD_eq fun i h => by
      rw [hk.d' i h (by simp [hi]), BitVec.getLsbD_zero]
  simp [betweenFrames, hm, hi, hs]

section
variable {b : Byte} {rest : List Input} {s : State}

theorem scans_iff : Expect.scans b rest s = true ↔ runnable s = true ∧
    s.inputs = .deviceByte b :: rest ∧ s.blk.seqPhase = .idle ∧ s.blk.bsMode = .idle := by
  simp [Expect.scans, and_assoc]

/-- The configuration of a machine that runs has distinct codes and distinct lock keys (43_scan_decoder.md R260). -/
theorem distinct_of_scans (h : Expect.scans b rest s = true) :
    s.cfg.codesDistinct = true ∧ s.cfg.locksDistinct = true := by
  obtain ⟨hw, -⟩ := (runnable_iff s).1 (scans_iff.1 h).1
  simp only [Config.wf, Bool.and_eq_true] at hw
  obtain ⟨⟨⟨⟨-, hc⟩, -⟩, -⟩, hl⟩ := hw
  exact ⟨hc, hl⟩

/-- A device byte that arrives while idle is a scan byte (42_sequencer.md R232). -/
theorem step_of_scans (h : Expect.scans b rest s = true) :
    step s = .next (scanByte b (s.withInputs rest)) := by
  obtain ⟨hr, hi, hp, hm⟩ := scans_iff.1 h
  have hf : betweenFrames (s.withInputs rest) = true :=
    betweenFrames_of_idle (Inv_of_runnable hr) hm
  rw [step_deviceByte hr hi, deviceByte_of_betweenFrames b hf, dispatch, withInputs_blk, hp]

/-- The state in which a completed code is resolved: the byte is taken and the buffer is empty. -/
def State.codeTaken (rest : List Input) (s : State) : State :=
  (s.withInputs rest).withBlk s.blk.clearScan

theorem step_of_make {e : KeyEntry} (h : Expect.scans b rest s = true) (he : e ∈ s.cfg.keyTable)
    (hm : e.make = Expect.acc b s) : step s = .next (resolve e.id true (s.codeTaken rest)) := by
  rw [step_of_scans h, scanByte, withInputs_cfg, withInputs_blk, scanAcc_eq_acc, ← hm,
    matchCode_make (distinct_of_scans h).1 he]
  rfl

theorem step_of_brk {e : KeyEntry} (h : Expect.scans b rest s = true) (he : e ∈ s.cfg.keyTable)
    (hm : e.brk = Expect.acc b s) : step s = .next (resolve e.id false (s.codeTaken rest)) := by
  rw [step_of_scans h, scanByte, withInputs_cfg, withInputs_blk, scanAcc_eq_acc, ← hm,
    matchCode_brk (distinct_of_scans h).1 he]
  rfl

end

/-! ### RESOLVE (43_scan_decoder.md R270 to R274) -/

theorem lockOf_of_notLock {c : Config} {k : KeyId} (h : Expect.notLock c k = true) :
    lockOf c k = none := by
  simp only [Expect.notLock, Bool.and_eq_true, bne_iff_ne] at h
  obtain ⟨⟨hc, hn⟩, hs⟩ := h
  rw [lockOf, if_neg hc, if_neg hn, if_neg hs]

section
variable {c : Config}

theorem locksDistinct_iff : c.locksDistinct = true ↔
    c.keyCaps ≠ c.keyNum ∧ c.keyCaps ≠ c.keyScroll ∧ c.keyNum ≠ c.keyScroll := by
  simp [Config.locksDistinct, distinct_eq_true_iff, and_assoc]

theorem lockOf_keyCaps : lockOf c c.keyCaps = some .caps := if_pos rfl

theorem lockOf_keyNum (h : c.locksDistinct = true) : lockOf c c.keyNum = some .num := by
  obtain ⟨hc, -, -⟩ := locksDistinct_iff.1 h
  rw [lockOf, if_neg hc.symm, if_pos rfl]

theorem lockOf_keyScroll (h : c.locksDistinct = true) : lockOf c c.keyScroll = some .scroll := by
  obtain ⟨-, hc, hn⟩ := locksDistinct_iff.1 h
  rw [lockOf, if_neg hc.symm, if_neg hn.symm, if_pos rfl]

end

section
variable {k : KeyId} {s : State}

/-- A key that is no lock key is forwarded (R274). -/
theorem resolve_of_notLock (p : Bool) (h : lockOf s.cfg k = none) :
    resolve k p s = s.emit (.key k p) := by
  rw [resolve, h]

theorem resolve_press_of_lock {l : Lock} (h : lockOf s.cfg k = some l) :
    resolve k true s = s.withBlk (s.blk.lockPress l) := by
  rw [resolve, h]
  rfl

theorem resolve_release_of_lock {l : Lock} (h : lockOf s.cfg k = some l) :
    resolve k false s = s.withBlk (s.blk.lockRelease l) := by
  rw [resolve, h]
  rfl

end

/-- LOCK_PRESS writes the LED bit and the release flag, whatever the last observation was (R271, R273). -/
theorem lockPress_eq (k : Block) (l : Lock) :
    k.lockPress l = (k.setLed l (if k.rel l then !k.led l else k.led l)).setRel l false := by
  unfold Block.lockPress
  split
  next => rfl
  next => cases l <;> rfl

section
variable {b : Byte} {rest : List Input} {e : KeyEntry} {l : Lock} {s : State}

/-- The press of a lock key changes its LED bit and its release flag only (R271, R275). -/
theorem step_of_lock_make (h : Expect.scans b rest s = true) (he : e ∈ s.cfg.keyTable)
    (hl : lockOf s.cfg e.id = some l) (hm : e.make = Expect.acc b s) :
    step s = .next ((s.codeTaken rest).withBlk
      ((s.blk.clearScan.setLed l (if s.blk.rel l then !s.blk.led l else s.blk.led l)).setRel l
        false)) := by
  rw [step_of_make h he hm, resolve_press_of_lock (s := s.codeTaken rest) hl, lockPress_eq]
  cases l <;> rfl

/-- The release of a lock key changes its release flag only (R272, R275). -/
theorem step_of_lock_brk (h : Expect.scans b rest s = true) (he : e ∈ s.cfg.keyTable)
    (hl : lockOf s.cfg e.id = some l) (hm : e.brk = Expect.acc b s) :
    step s = .next ((s.codeTaken rest).withBlk (s.blk.clearScan.setRel l true)) := by
  rw [step_of_brk h he hm, resolve_release_of_lock (s := s.codeTaken rest) hl]
  rfl

end

/-! ### The statements -/

/-- Settles O35: the code's entry is the one that MATCH finds, and RESOLVE forwards its key. -/
theorem completedCodesEmitKeyEvents : Obligations.CompletedCodesEmitKeyEvents := by
  intro b rest e s h he hk
  have hl : lockOf s.cfg e.id = none := lockOf_of_notLock hk
  refine ⟨fun hm => ?_, fun hm => ?_⟩
  · exact (step_of_make h he hm).trans (congrArg _ (resolve_of_notLock true hl))
  · exact (step_of_brk h he hm).trans (congrArg _ (resolve_of_notLock false hl))

/-- Settles O36: the three identities are distinct, so each is its own lock key. -/
theorem lockKeysToggleOnThePressEdge : Obligations.LockKeysToggleOnThePressEdge := by
  intro b rest e s h he
  obtain ⟨-, hd⟩ := distinct_of_scans h
  have hcaps (hi : e.id = s.cfg.keyCaps) : lockOf s.cfg e.id = some .caps := hi ▸ lockOf_keyCaps
  have hnum (hi : e.id = s.cfg.keyNum) : lockOf s.cfg e.id = some .num := hi ▸ lockOf_keyNum hd
  have hscroll (hi : e.id = s.cfg.keyScroll) : lockOf s.cfg e.id = some .scroll :=
    hi ▸ lockOf_keyScroll hd
  exact ⟨fun hm hi => step_of_lock_make h he (hcaps hi) hm,
    fun hm hi => step_of_lock_make h he (hnum hi) hm,
    fun hm hi => step_of_lock_make h he (hscroll hi) hm,
    fun hm hi => step_of_lock_brk h he (hcaps hi) hm,
    fun hm hi => step_of_lock_brk h he (hnum hi) hm,
    fun hm hi => step_of_lock_brk h he (hscroll hi) hm⟩

/-- Settles O37: MATCH finds nothing, so the bound on the buffer decides. -/
theorem unmatchedBytesExtendOrDesync : Obligations.UnmatchedBytesExtendOrDesync := by
  intro b rest s h hn
  rw [step_of_scans h, scanByte, withInputs_cfg, withInputs_blk, scanAcc_eq_acc, matchCode_none hn]
  refine ⟨fun hlt => ?_, fun hle => ?_⟩
  · have hk : s.blk.keepByte b =
        { s.blk with sbAcc := Expect.acc b s, sbLen := s.blk.sbLen + 1#2 } := by
      rw [Block.keepByte, scanAcc_eq_acc]
    exact congrArg _ ((if_neg (Nat.not_le.2 hlt)).trans (congrArg _ hk))
  · exact congrArg _ (if_pos hle)

end Sys2Proof.Machine

/-! SUPPORT. The queries and the rejected requests (44_queries.md): XLAT as a search of CHAR_MAP, and what a request word of no row of the map does. -/

namespace Sys2Proof.Machine

/-! ### XLAT (43_scan_decoder.md R280, 30_encoding.md R121) -/

theorem charMapAt_eq (k : KeyId) (t : List CharEntry) :
    charMapAt k t = (t.find? (·.id = k)).map fun e => (e.lower, e.upper) := by
  induction t with
  | nil => rfl
  | cons e es ih => by_cases h : e.id = k <;> simp [charMapAt, h, ih]

section
variable {c : Config} {v : Bool} {k : KeyId} {e : CharEntry}

/-- An identity that CHAR_MAP does not map is null. -/
theorem xlat_of_unmapped (h : c.charMap.find? (·.id = k) = none) : xlat c v k = none := by
  rw [xlat, charMapAt_eq, h]
  rfl

/-- A mapped identity is its entry's upper character exactly if it is alphabetic and LED_CAPS is 1. -/
theorem xlat_of_mapped (h : c.charMap.find? (·.id = k) = some e) :
    xlat c v k = some (if k ∈ c.isAlpha ∧ v = true then e.upper else e.lower) := by
  rw [xlat, charMapAt_eq, h]
  by_cases hu : k ∈ c.isAlpha ∧ v = true <;> simp [hu]

end

/-- The Q_XLAT word of a character: VALID is bit 8 (30_encoding.md R121). -/
theorem xlatWord_some (ch : Byte) : xlatWord (some ch) = BitVec.ofNat 32 (256 + ch.toNat) := by
  rw [xlatWord, flag, field_zero, ofNat_or_field _ ch.isLt, Nat.add_comm]
  rfl

/-- Settles O38: XLAT reads the identity's first entry of CHAR_MAP, and the word holds what XLAT answers. -/
theorem xlatFoldsCaseForAlphabeticKeys : Obligations.XlatFoldsCaseForAlphabeticKeys := by
  intro k s
  refine ⟨fun hn => ?_, fun pre post e hm hk hp => ?_⟩
  · have hf : s.cfg.charMap.find? (·.id = k) = none := by simpa using hn
    rw [exec, execQXlat, xlat_of_unmapped hf]
    rfl
  · have hf : s.cfg.charMap.find? (·.id = k) = some e :=
      List.find?_eq_some_iff_append.2 ⟨by simpa using hk, pre, post, hm, by simpa using hp⟩
    rw [exec, execQXlat, xlat_of_mapped hf, xlatWord_some]
    rfl

/-! ### A request word of no row (44_queries.md R297) -/

/-- A word that no row of the map accepts is not decoded (30_encoding.md R110, R113). -/
theorem decodeReq_of_no_row {w : ReqWord} (h : ∀ r ∈ requestRows, w &&& r.mask ≠ r.pattern) :
    ∃ e, decodeReq w = .error e := by
  cases hd : decodeReq w with
  | error e => exact ⟨e, rfl⟩
  | ok i =>
    obtain ⟨r, hr, hm, -⟩ := (requestDecodingFollowsTheMap w).1 i hd
    exact absurd hm (h r hr)

/-- The word of a rejected request is its code (30_encoding.md R115, R116). -/
theorem rejectRequest_eq (s : State) : rejectRequest s = respond 0x00000007#32 s := by
  rw [rejectRequest, resultWord_eq]
  rfl

/-- Settles O42: the word decodes to no row, and the step answers it as a rejected request. -/
theorem rejectedRequestsAnswerSeven : Obligations.RejectedRequestsAnswerSeven := by
  intro w rest s hr hi hn
  obtain ⟨e, hd⟩ := decodeReq_of_no_row hn
  exact (step_of_reject hr hi hd).trans (rejectRequest_eq _)

/-! ### The six queries (44_queries.md R290) -/

/-- Settles O39: each of the six queries is one response, with its own word. -/
theorem queriesOnlyAnswer : Obligations.QueriesOnlyAnswer := by
  intro i s hi
  cases i with
  | qLocks | qResult | qStatus | qDev | qDiag | qXlat => exact ⟨_, rfl⟩
  | _ => cases hi

end Sys2Proof.Machine

/-! SUPPORT. RESULT and the Device State that the device reports (60_exceptions.md R322, R324; 10_state.md R47, R49, R50): what one edge may write of them, what eleven edges may, and so which rows and which steps write them. -/

namespace Sys2Proof.Machine

/-! ### One Done, with the RESULT and the DEV_ID that it carries -/

/-- The typematic setting, TM_RATE and TM_DELAY. -/
def Block.typematic (k : Block) : BitVec 5 × BitVec 2 := (k.tmRate, k.tmDelay)

/-- The elements that 60_exceptions.md R322 and R324 speak of, the LED bits apart. -/
def Block.device (k : Block) : RespWord × BitVec 16 × (BitVec 5 × BitVec 2) :=
  (k.result, k.devId, k.typematic)

theorem device_eq_iff {k l : Block} : l.device = k.device ↔
    l.result = k.result ∧ l.devId = k.devId ∧ l.typematic = k.typematic := by
  simp only [Block.device, Prod.mk.injEq]

/-- From s to t, RESULT and DEV_ID change only with the Done that ends a transaction and carries them (60_exceptions.md R322, R324). -/
structure Reports (s t : State) : Prop where
  ends : ∀ w, t.out = s.out ++ [.done w] → t.blk.result = w ∧ t.blk.seqPhase = .idle
  busy : ∀ w, t.out = s.out ++ [.done w] → s.blk.Inv → s.blk.seqPhase ≠ .idle
  result : t.blk.result ≠ s.blk.result → t.out = s.out ++ [.done t.blk.result]
  devId : t.blk.devId ≠ s.blk.devId →
    ∃ w, t.out = s.out ++ [.done w] ∧ w.extractLsb' 0 4 = 3#4 ∧ w.extractLsb' 16 16 = t.blk.devId

/-- From s to t, RESULT and DEV_ID change only as reported, and TM_RATE and TM_DELAY do not change. -/
structure ReportsOnly (s t : State) : Prop extends Reports s t where
  typematic : t.blk.typematic = s.blk.typematic

theorem Reports.of_noDone {s t : State} (hr : t.blk.result = s.blk.result)
    (hi : t.blk.devId = s.blk.devId) (ho : ∀ w, t.out ≠ s.out ++ [.done w]) : Reports s t where
  ends w h := absurd h (ho w)
  busy w h := absurd h (ho w)
  result h := absurd hr h
  devId h := absurd hi h

theorem ReportsOnly.of_noDone {s t : State} (hd : t.blk.device = s.blk.device)
    (ho : ∀ w, t.out ≠ s.out ++ [.done w]) : ReportsOnly s t := by
  obtain ⟨hr, hi, hm⟩ := device_eq_iff.1 hd
  exact ⟨.of_noDone hr hi ho, hm⟩

theorem ReportsOnly.of_silent {s t : State} (hd : t.blk.device = s.blk.device)
    (ho : t.out = s.out) : ReportsOnly s t :=
  .of_noDone hd (by simp [ho])

/-- An operation that emits nothing may come before: what follows it reports all that is new. -/
theorem ReportsOnly.trans_of_silent {s u t : State} (hsu : ReportsOnly s u) (hut : ReportsOnly u t)
    (ho : u.out = s.out) (hk : s.blk.Inv → u.blk.Inv)
    (hp : s.blk.Inv → s.blk.seqPhase = .idle → u.blk.seqPhase = .idle) : ReportsOnly s t where
  ends w h := hut.ends w (ho ▸ h)
  busy w h hs hidle := hut.busy w (ho ▸ h) (hk hs) (hp hs hidle)
  result h := by
    have hr : u.blk.result = s.blk.result := by
      by_contra hne
      simpa [ho] using hsu.result hne
    exact ho ▸ hut.result (hr ▸ h)
  devId h := by
    have hi : u.blk.devId = s.blk.devId := by
      by_contra hne
      simpa [ho] using hsu.devId hne
    exact ho ▸ hut.devId (hi ▸ h)
  typematic := hut.typematic.trans hsu.typematic

/-! ### FINISH -/

/-- The ID stands in bits 31:16 of a result word (30_encoding.md R115). -/
theorem resultWord_id (c : ResultCode) (n : Bool) (b : Byte) (id : BitVec 16) :
    (resultWord c n b id).extractLsb' 16 16 = id := by
  simp (disch := omega) only [resultWord, BitVec.extractLsb'_or, extract_field_same,
    extract_field_other, extract_flag_other, BitVec.zero_or]

/-- FINISH after operations that emit nothing and write at most the DEV_ID that it carries. -/
theorem ReportsOnly.of_finish {s u : State} {c : ResultCode} {x : Byte} {id : BitVec 16}
    (hp : s.blk.seqPhase ≠ .idle) (ho : u.out = s.out)
    (hd : u.blk.devId ≠ s.blk.devId → c = .deviceId ∧ id = u.blk.devId)
    (hm : u.blk.typematic = s.blk.typematic) : ReportsOnly s (finish c x id u) where
  ends w h := by
    simp only [finish_out, ho, List.append_cancel_left_eq, List.cons.injEq, Output.done.injEq,
      and_true] at h
    exact ⟨h, rfl⟩
  busy _ _ _ := hp
  result _ := congrArg (· ++ _) ho
  devId h := by
    obtain ⟨rfl, rfl⟩ := hd h
    exact ⟨_, congrArg (· ++ _) ho, resultWord_code _ _ _ _, resultWord_id _ _ _ _⟩
  typematic := hm

/-! ### The end of a frame -/

theorem setLed_device (k : Block) (l : Lock) (v : Bool) : (k.setLed l v).device = k.device := by
  cases l <;> rfl

theorem setRel_device (k : Block) (l : Lock) (v : Bool) : (k.setRel l v).device = k.device := by
  cases l <;> rfl

/-- A resolved key writes an LED bit and a release flag at most (43_scan_decoder.md R271, R274). -/
theorem resolve_device (x : KeyId) (p : Bool) (s : State) :
    (resolve x p s).blk.device = s.blk.device := by
  obtain ⟨l, -, h⟩ | ⟨-, h⟩ := resolve_cases x p s <;> rw [h]
  · cases p with
    | false => exact setRel_device _ l true
    | true => rw [withBlk_blk, if_pos rfl, lockPress_eq, setRel_device, setLed_device]
  · rfl

/-- A resolved key emits its key event at most (R270, R275). -/
theorem resolve_noDone (x : KeyId) (p : Bool) (s : State) (w : RespWord) :
    (resolve x p s).out ≠ s.out ++ [.done w] := by
  obtain ⟨l, -, h⟩ | ⟨-, h⟩ := resolve_cases x p s <;> rw [h] <;> simp

theorem scanByte_device (b : Byte) (s : State) : (scanByte b s).blk.device = s.blk.device := by
  obtain ⟨x, p, h⟩ | ⟨-, h⟩ | ⟨-, h⟩ := scanByte_cases b s <;> rw [h]
  · exact resolve_device x p (s.withBlk s.blk.clearScan)
  · rfl
  · rfl

theorem scanByte_noDone (b : Byte) (s : State) (w : RespWord) :
    (scanByte b s).out ≠ s.out ++ [.done w] := by
  obtain ⟨x, p, h⟩ | ⟨-, h⟩ | ⟨-, h⟩ := scanByte_cases b s <;> rw [h]
  · exact resolve_noDone x p (s.withBlk s.blk.clearScan) w
  · simp
  · simp

/-- A response that ends the transaction reports it; any other writes no Device State (42_sequencer.md R220 to R226). -/
theorem onResponse_reportsOnly (b : Byte) {s : State} (hp : s.blk.seqPhase ≠ .idle) :
    ReportsOnly s (onResponse b (s.withBlk s.blk.clearRx)) := by
  obtain ⟨-, -, h⟩ | ⟨-, -, h⟩ | ⟨-, h⟩ | ⟨-, -, -, h⟩ | ⟨-, -, h⟩ | ⟨c, x, -, -, -, h⟩ | ⟨id, h⟩ :=
    onResponse_cases b (s.withBlk s.blk.clearRx) <;> rw [h]
  · exact .of_silent rfl rfl
  · exact .of_silent rfl rfl
  · exact .of_silent rfl rfl
  · exact .of_silent rfl rfl
  · exact .of_silent rfl rfl
  · exact .of_finish hp rfl (absurd rfl) rfl
  · exact .of_finish hp rfl (fun _ => ⟨rfl, rfl⟩) rfl

theorem edge_reportsOnly {d : Bool} {s t : State} (h : edge d s = .next t) : ReportsOnly s t := by
  obtain ⟨-, -, rfl⟩ | ⟨-, -, h⟩ | ⟨-, rfl⟩ | ⟨-, -, -, rfl⟩ | ⟨-, -, rfl⟩ | ⟨-, -, rfl⟩ :=
    edge_cases h
  · exact .of_silent rfl rfl
  · obtain ⟨b, -, h⟩ | ⟨p, q, -, rfl⟩ := receiveLast_cases h
    · obtain ⟨ha, rfl⟩ | ⟨-, rfl⟩ := dispatch_cases h
      · exact onResponse_reportsOnly b fun hi => SeqPhase.noConfusion (ha.symm.trans hi)
      · exact .of_noDone (scanByte_device b (s.withBlk s.blk.clearRx)) (scanByte_noDone b _)
    · exact .of_silent rfl rfl
  · exact .of_silent rfl rfl
  · exact .of_silent rfl rfl
  · exact .of_silent rfl rfl
  · exact .of_silent rfl rfl

/-! ### Eleven edges, a timeout, a host byte -/

/-- The edges before the one that emits are silent, and ten edges after it complete no other frame. -/
theorem edges_reportsOnly {ds : List Bool} {s t : State} (hn : ds.length ≤ 11)
    (h : edges ds s = .next t) : ReportsOnly s t := by
  induction ds generalizing s with
  | nil => cases h; exact .of_silent rfl rfl
  | cons d ds ih =>
    simp only [List.length_cons] at hn
    obtain ⟨u, hu, h⟩ := andThen_eq_next h
    have hr := edge_reportsOnly hu
    obtain ho | ⟨-, hx⟩ := edge_emits hu
    · exact hr.trans_of_silent (ih (by omega) h) ho (edge_Inv · hu) fun hk hp => edge_idle hk hp hu
    · obtain ⟨v, i, m, rfl⟩ := edges_of_rxReady hx (by omega) h
      exact { hr with }

theorem deviceByte_reportsOnly {b : Byte} {s t : State} (h : deviceByte b s = .next t) :
    ReportsOnly s t :=
  edges_reportsOnly (ds := wireBits (encodeFrame b)) (Nat.le_refl 11) h

theorem hostByte_reportsOnly {b : Byte} {s t : State} (h : hostByte b s = .next t) :
    ReportsOnly s t := by
  by_cases hw : s.blk.bsMode = .inhibit ∧ s.blk.txFrame = encodeFrame b
  · obtain ⟨hm, hf⟩ := hw
    rw [hostByte_on_wire hm hf, txCycle_acknowledged false hm hf] at h
    cases h
    exact .of_silent rfl rfl
  · rw [hostByte_off_wire hw] at h
    cases h
    exact .of_silent rfl rfl

theorem bsAbort_device (k : Block) : k.bsAbort.device = k.device := by
  unfold Block.bsAbort; split <;> rfl

theorem onTimeout_reportsOnly (s : State) : ReportsOnly s (onTimeout s) := by
  by_cases hp : s.blk.seqPhase = .idle
  · rw [onTimeout_of_idle hp]
    exact .of_silent rfl rfl
  · rw [onTimeout, if_neg hp]
    obtain ⟨-, hi, hm⟩ := device_eq_iff.1 (bsAbort_device s.blk)
    exact .of_finish hp rfl (absurd hi) hm

theorem inhibitDone_reportsOnly (s : State) : ReportsOnly s (inhibitDone s) := by
  by_cases hm : s.blk.bsMode = .inhibit
  · rw [inhibitDone_of_inhibit hm]
    exact .of_silent rfl rfl
  · rw [inhibitDone_of_not_inhibit hm]
    exact .of_silent rfl rfl

/-! ### Rows, inputs of no row, and a whole step -/

theorem respond_reportsOnly {w : RespWord} {s t : State} (h : respond w s = .next t) :
    ReportsOnly s t := by
  cases h
  exact .of_noDone rfl (by simp)

/-- Of the transaction requests, only KB_TYPEMATIC writes one of these elements at its acceptance (42_sequencer.md R202 to R209). -/
theorem accepted_device (c : Config) (k : Block) {i : Instr} (hi : ∀ r d, i ≠ .kbTypematic r d) :
    (Expect.accepted c k i).device = k.device := by
  cases i with
  | kbTypematic r d => exact absurd rfl (hi r d)
  | _ => rfl

theorem exec_transaction_reportsOnly {i : Instr} {s t : State} (ht : i.isTransaction = true)
    (hi : ∀ r d, i ≠ .kbTypematic r d) (h : exec i s = .next t) : ReportsOnly s t := by
  obtain ⟨w, he⟩ := encode_of_isTransaction s.cfg ht
  rw [exec_eq_offer ht he] at h
  obtain ⟨-, -, ho⟩ | ⟨held, ho⟩ := offer_cases _ _ s <;> cases ho.symm.trans h
  · exact .of_silent (accepted_device _ _ hi) rfl
  · exact .of_silent rfl rfl

theorem exec_kbTypematic_reports {r d : Byte} {s t : State}
    (h : exec (.kbTypematic r d) s = .next t) : Reports s t := by
  simp only [exec, execKbTypematic] at h
  obtain ⟨-, -, ho⟩ | ⟨held, ho⟩ := offer_cases _ _ s <;> cases ho.symm.trans h
  · exact .of_noDone rfl rfl (by simp)
  · exact .of_noDone rfl rfl (by simp)

theorem exec_reportsOnly {i : Instr} {s t : State} (hr : i ≠ .rst)
    (hi : ∀ r d, i ≠ .kbTypematic r d) (h : exec i s = .next t) : ReportsOnly s t := by
  cases i with
  | kbReset | kbEnable | kbDisable | kbDefaults | kbSetleds | kbTypematic | kbReadid | kbResend =>
    exact exec_transaction_reportsOnly rfl hi h
  | qLocks | qResult | qStatus | qDev | qDiag | qXlat => exact respond_reportsOnly h
  | fall d => exact edge_reportsOnly h
  | inhdone => cases h; exact inhibitDone_reportsOnly s
  | timeout => cases h; exact onTimeout_reportsOnly s
  | rst => exact absurd rfl hr
  | cmdReset | cmdEnable | cmdDisable | cmdSetDefault | cmdSetLeds | cmdSetTypematic | cmdReadId
  | cmdResend | ledData | typematicData => exact hostByte_reportsOnly h
  | respAck | respResend | respReady => exact deviceByte_reportsOnly h

/-- Every row but RST reports what it writes of RESULT and DEV_ID. -/
theorem exec_reports {i : Instr} {s t : State} (hr : i ≠ .rst) (h : exec i s = .next t) :
    Reports s t := by
  by_cases hi : ∃ r d, i = .kbTypematic r d
  · obtain ⟨r, d, rfl⟩ := hi
    exact exec_kbTypematic_reports h
  · exact (exec_reportsOnly hr (fun r d he => hi ⟨r, d, he⟩) h).toReports

theorem onReject_reportsOnly {i : Input} {r : Reject} {s t : State}
    (h : onReject i r s = .next t) : ReportsOnly s t := by
  cases i with
  | req w => exact respond_reportsOnly h
  | event ev =>
    simp only [onReject] at h
    split at h
    next => cases h; exact .of_silent rfl rfl
    next => cases h
  | reset b => cases h; exact .of_silent rfl rfl
  | hostCommand b | hostLedData b | hostTypematicData b => exact hostByte_reportsOnly h
  | deviceByte b => exact deviceByte_reportsOnly h

/-- A step takes RST and emits nothing, or it reports what it writes of RESULT and DEV_ID, and it writes the typematic setting only if it takes KB_TYPEMATIC. -/
theorem step_reports {s t : State} (h : step s = .next t) :
    (∃ rest, s.inputs = .reset 1#1 :: rest ∧ t.out = s.out) ∨
    (Reports s t ∧ (t.blk.typematic ≠ s.blk.typematic →
      ∃ w rest r d, s.inputs = .req w :: rest ∧ decodeReq w = .ok (.kbTypematic r d))) := by
  have hr := step_runnable h
  cases hi : s.inputs with
  | nil =>
    cases (step_no_input hr hi).symm.trans h
    exact .inr ⟨(ReportsOnly.of_silent rfl rfl).toReports, absurd rfl⟩
  | cons x rest =>
    cases hd : decode s.cfg x with
    | error r =>
      have hx := onReject_reportsOnly ((step_of_reject hr hi hd).symm.trans h)
      exact .inr ⟨{ hx with }, absurd hx.typematic⟩
    | ok i =>
      have hx := (step_of_decode hr hi hd).symm.trans h
      by_cases hrst : i = .rst
      · subst hrst
        cases hx
        exact .inl ⟨rest, by rw [← encodeOfDecodeIsTheInput _ _ _ hd]; rfl, rfl⟩
      · refine .inr ⟨{ exec_reports hrst hx with }, fun hm => ?_⟩
        by_cases ht : ∃ r d, i = .kbTypematic r d
        · obtain ⟨r, d, rfl⟩ := ht
          obtain rfl := encodeOfDecodeIsTheInput _ _ _ hd
          exact ⟨_, rest, r, d, rfl, hd⟩
        · exact absurd (exec_reportsOnly hrst (fun r d he => ht ⟨r, d, he⟩) hx).typematic hm

/-- Settles O53: RST emits nothing, and every other step reports what it writes. -/
theorem doneCarriesTheResult : Obligations.DoneCarriesTheResult := by
  intro s t h
  obtain ⟨rest, hi, ho⟩ | ⟨hr, -⟩ := step_reports h
  · exact ⟨fun w hw => by simp [ho] at hw, fun _ => .inl ⟨rest, hi⟩⟩
  · refine ⟨fun w hw => ?_, fun hne => .inr (hr.result hne)⟩
    obtain ⟨hres, hidle⟩ := hr.ends w hw
    exact ⟨hres, hr.busy w hw (Inv_of_runnable (step_runnable h)), hidle⟩

/-- Settles O54: RST apart, every row and every step reports a new DEV_ID, and only KB_TYPEMATIC writes the typematic setting. -/
theorem deviceStateHasFewWriters : Obligations.DeviceStateHasFewWriters := by
  refine ⟨fun i s t h hrst => ⟨fun hi => ?_, (exec_reports hrst h).devId⟩, fun s t h => ?_⟩
  · exact Prod.mk.inj (exec_reportsOnly hrst hi h).typematic
  · obtain ⟨rest, hi, -⟩ | ⟨hr, hm⟩ := step_reports h
    · exact ⟨fun _ => .inl ⟨rest, hi⟩, fun _ => .inl ⟨rest, hi⟩⟩
    · exact ⟨fun hne => .inr (hm hne), fun hne => .inr (hr.devId hne)⟩

end Sys2Proof.Machine

/-! SUPPORT. Reset, and the held request at the port (70_reset_and_hazards.md R350, R351, R362): RST writes the block and nothing around it, so that what is held stays and is accepted next, and a request behind a different one waits. -/

namespace Sys2Proof.Machine

section
variable {s : State}

/-! ### What the port offers while something is held (42_sequencer.md R362) -/

/-- While something is held, the first held request is the only one that the port offers. -/
theorem portOffers_of_held {w v : ReqWord} {rest : List ReqWord} (hh : s.held = v :: rest) :
    portOffers w s = (v == w) := by
  simp only [portOffers, hh]

/-- An idle sequencer accepts the first held request when it is offered again, and takes it off the list (42_sequencer.md R201, log entries 7 and 9). -/
theorem exec_accepted_of_held {i : Instr} {w : ReqWord} {rest : List ReqWord}
    (hi : i.isTransaction = true) (he : encode s.cfg i = .req w) (hp : s.blk.seqPhase = .idle)
    (hh : s.held = w :: rest) :
    exec i s = .next { s with held := rest, blk := Expect.accepted s.cfg s.blk i } := by
  have ho : portOffers w s = true := (portOffers_of_held hh).trans (beq_self_eq_true w)
  rw [exec_accepted hi he hp ho, hh, List.tail_cons]

end

/-! ### The statements -/

/-- Settles O56: RST replaces the block by the reset one, whose sequencer is idle and so accepts the request that is still held. -/
theorem rstAbandonsSilentlyAndKeepsTheHeldRequest :
    Obligations.RstAbandonsSilentlyAndKeepsTheHeldRequest := by
  intro s
  refine ⟨resetBlock s, rfl, rfl, rfl, rfl, rfl, rfl, fun i w rest hi he hh => ?_⟩
  exact exec_accepted_of_held (s := resetBlock s) hi he rfl hh

/-- Settles O57: the port offers the request at its head, which is another one, so this one goes to the end of the list. -/
theorem requestsWaitBehindTheHeldOne : Obligations.RequestsWaitBehindTheHeldOne := by
  intro i w v rest s hi he _ hh hv
  constructor
  · rw [portOffers_of_held hh, beq_eq_false_iff_ne]
    exact hv
  · rw [exec_eq_offer hi he]
    exact offer_behind hh hv

/-- Settles O1: RST writes R351's table from every state, and the block of that table satisfies R54. -/
theorem rstSetsEveryElement : Obligations.RstSetsEveryElement :=
  ⟨fun _ => rfl, rfl, (inv_iff_Inv _).2 reset_Inv⟩

/-- Settles O49: the reset state runs, and its block is within every range because the initial configuration admits a scan buffer of one byte at least. -/
theorem resetStateIsGood : Obligations.ResetStateIsGood :=
  (good_iff _).2 ⟨runnable_reset, reset_Good (by decide)⟩

end Sys2Proof.Machine
